-- ==== Sys2Proof/Word.lean ====
section
/-! DEFINITION. The word types of `bit_plane_codec`: the widths of rule R6 (00_scope.md) and of the register
table of rule R20 (10_state.md). -/

namespace Sys2Proof

/-- The register data path, XLEN = 32 bits, and the command word, CMD_W = 32 bits (R6). -/
abbrev Word := BitVec 32

/-- One byte: a payload byte, a header byte, a filename character, one channel of a pixel (R5, R29, R100). -/
abbrev Byte := BitVec 8

/-- A row or column count or coordinate, DIM_W = 16 bits (R6, R24, R25, R50). -/
abbrev Dim := BitVec 16

/-- A pixel: three channels of 8 bits packed as (ch2, ch1, ch0), channel 0 in bits 7:0 (R31, R51). -/
abbrev Pixel := BitVec 24

/-- A bit triple, TRIPLE_W = 10 bits: G0 in bits 9:5, G1 in bits 4:2, G2 in bits 1:0 (R6, R30). -/
abbrev Triple := BitVec 10

/-- The field ERR of STATUS, 3 bits (R20, R22). -/
abbrev ErrCode := BitVec 3

end Sys2Proof
end

