-- ==== Sys2Proof/Syntax.lean ====
section
/-! DEFINITION. The fourteen commands (30_encoding.md R72), one constructor per row of spec/opcode_table.json.
A command has no operands in its word: every operand is a fixed register or buffer (R71). -/

namespace Sys2Proof

/-- The commands of rule R72, in the table's order. -/
inductive Instr where
  /-- NOP (R170) -/
  | nop
  /-- SPLIT (R113) -/
  | split
  /-- MERGE (R114) -/
  | merge
  /-- PACK (R118) -/
  | pack
  /-- UNPACK (R119) -/
  | unpack
  /-- LDPIX (R134) -/
  | ldpix
  /-- STPIX (R135) -/
  | stpix
  /-- INEXT (R133) -/
  | inext
  /-- COMPOSE (R95) -/
  | compose
  /-- PARSE (R97) -/
  | parse
  /-- EMBED (R150) -/
  | embed
  /-- EXTRACT (R153) -/
  | extract
  /-- IRST (R132) -/
  | irst
  /-- CLRERR (R171) -/
  | clrerr
deriving DecidableEq, Repr

end Sys2Proof
end

