-- ==== Sys2Proof/WellFormed.lean ====
section
/-! DEFINITION. Well-formedness. A command carries no operand (R71), so every term of `Instr` is well formed;
what can be ill formed is a command WORD (format C, R70): its ZERO field must be 0 (R74) and its opcode must be
one the opcode map assigns (R73). These checks are stated on the word as a number, apart from the decoder's fields. -/

namespace Sys2Proof

/-- The ZERO bits 31:4 of the word are all 0 (R70, R74). -/
def zeroBitsClear (w : Word) : Bool := w.toNat / 16 == 0

/-- The opcode bits 3:0 of the word are not one of the reserved values 0xD and 0xE (R72, R73). -/
def opcodeAssigned (w : Word) : Bool := w.toNat % 16 != 0xD && w.toNat % 16 != 0xE

/-- A word that is a command: its ZERO bits are clear and its opcode is assigned (R70, R72 to R74). -/
def wordWellFormed (w : Word) : Bool := zeroBitsClear w && opcodeAssigned w

/-- A well-formed instruction. No command has an operand, so there is nothing to check in any of them (R71). -/
def Instr.wellFormed : Instr → Bool
  | .nop | .split | .merge | .pack | .unpack | .ldpix | .stpix | .inext | .compose | .parse | .embed | .extract
  | .irst | .clrerr => true

end Sys2Proof
end

