-- ==== Sys2Proof/Decode.lean ====
section
/-! DEFINITION. Decoding a command word, total on all 2^32 words, and the encoder (30_encoding.md R70 to R77). -/

namespace Sys2Proof

/-- The field ZERO of format C, bits 31:4 (R70). -/
def zeroField (w : Word) : BitVec 28 := w.extractLsb' 4 28

/-- The field OP of format C, bits 3:0 (R70). -/
def opField (w : Word) : BitVec 4 := w.extractLsb' 0 4

/-- The opcode map of R72. The reserved opcodes 0xD and 0xE name no command (R73). -/
def ofOpcode : Nat → Option Instr
  | 0x0 => some .nop
  | 0x1 => some .split
  | 0x2 => some .merge
  | 0x3 => some .pack
  | 0x4 => some .unpack
  | 0x5 => some .ldpix
  | 0x6 => some .stpix
  | 0x7 => some .inext
  | 0x8 => some .compose
  | 0x9 => some .parse
  | 0xA => some .embed
  | 0xB => some .extract
  | 0xC => some .irst
  | 0xF => some .clrerr
  | _ => none

/-- The command a word encodes: none if a bit of ZERO is set (R74), else what the opcode map gives. The order
is that of R77. -/
def decode (w : Word) : Option Instr :=
  if zeroField w = 0#28 then ofOpcode (opField w).toNat else none

/-- The word of each command, the column "word" of R72. -/
def encode : Instr → Word
  | .nop => 0x00000000#32
  | .split => 0x00000001#32
  | .merge => 0x00000002#32
  | .pack => 0x00000003#32
  | .unpack => 0x00000004#32
  | .ldpix => 0x00000005#32
  | .stpix => 0x00000006#32
  | .inext => 0x00000007#32
  | .compose => 0x00000008#32
  | .parse => 0x00000009#32
  | .embed => 0x0000000A#32
  | .extract => 0x0000000B#32
  | .irst => 0x0000000C#32
  | .clrerr => 0x0000000F#32

/-- The command word of a table row: its low `nbits` bits are those of `w`, the bits above are 0. A command is
one 32-bit word (R70, R76). -/
def tableWord (nbits w : Nat) : Word := BitVec.ofNat 32 (w % 2 ^ nbits)

/-- The decoder on a row of the opcode table: a number that does not fit the one 32-bit word is no command. -/
def decodeTableWord (nbits w : Nat) : Option Instr :=
  if w % 2 ^ nbits < 2 ^ 32 then decode (tableWord nbits w) else none

end Sys2Proof
end

