-- ==== Sys2Proof/Config.lean ====
section
/-! DEFINITION. What an implementation fixes, and the free values. The constants of rules R5 and R6, the open
parameter of R7, the value an unlisted memory element reads as (assumption 1), and the unspecified contents of
HDR and NAME after a reset (R42, assumption 2). -/

namespace Sys2Proof.Config

/-- HDR_LEN: bytes in the header (R5). -/
@[simp] abbrev hdrLen : Nat := 30

/-- SIZE_DIGITS: decimal digits of the size field (R5). -/
@[simp] abbrev sizeDigits : Nat := 8

/-- SIZE_MAX: the largest payload size the header can state (R5). -/
@[simp] abbrev sizeMax : Nat := 99999999

/-- NAME_FIELD: characters of the filename field (R5). -/
@[simp] abbrev nameField : Nat := 20

/-- NAME_MAX: bytes in the NAME buffer (R6). -/
@[simp] abbrev nameMax : Nat := 255

/-- The number of elements of PAY (PAY_SIZE, R6) and of pairs (row, col) of two 16-bit numbers (R50). -/
@[simp] abbrev spaceSize : Nat := 4294967296

/-- START_MARK, the character `<` (R5, R90). -/
@[simp] abbrev startMark : Byte := 0x3C#8

/-- END_MARK, the character `>` (R5, R90). -/
@[simp] abbrev endMark : Byte := 0x3E#8

/-- SIZE_PAD, the digit 0 (R5, R91). -/
@[simp] abbrev digitZero : Byte := 0x30#8

/-- The digit 9 (R92). -/
@[simp] abbrev digitNine : Byte := 0x39#8

/-- NAME_PAD, the underscore (R5, R93). -/
@[simp] abbrev underscore : Byte := 0x5F#8

/-- The two channel orders the source names (R7): which colour channel 0, 1, 2 is. -/
inductive ChannelOrder where
  | bgr
  | rgb
deriving DecidableEq, Repr, Inhabited

/-- CHANNEL_ORDER, the one open parameter (R7, D24). No rule reads it, so no definition of the model does;
keeping it the same at EMBED and EXTRACT is a duty of the host (R219). -/
opaque channelOrder : ChannelOrder

/-- What an element of CAR or PAY that nothing has written reads as. DESIGN CHOICE (unsafe, assumption 1): the
spec gives CAR and PAY no initial contents, only that every access succeeds (R52, R66). -/
def unlisted (w : Nat) : BitVec w := 0#w

/-- The unspecified byte `j` of HDR drawn at the `n`-th reset (R42): a free value, nothing constrains it
(assumption 2). -/
opaque hdrDraw : Nat → Nat → Byte

/-- The unspecified byte `j` of NAME drawn at the `n`-th reset (R42): a free value (assumption 2). -/
opaque nameDraw : Nat → Nat → Byte

end Sys2Proof.Config
end

