-- ==== Sys2Proof/Machine/State.lean ====
section
/-! DEFINITION. The state of the block, as plain data, and the state after reset: the registers of R20 to R32,
the buffers HDR and NAME (R35, R36), the external memories CAR and PAY (R37, R38), and three fields of the
model's own: the host script still to be carried out (assumption 3), the values the host has read (assumption 4)
and the number of resets drawn (assumption 2). -/

namespace Sys2Proof.Machine

/-- A memory space (CAR or PAY) as its listed elements: pairs of an element index and the element, indices
strictly rising, no element equal to what an unlisted index reads as (`Memory.wf`). `Memory 8` is a list of
`Host.Cell`. The spaces are indexed by element, not by byte address (R50). -/
abbrev Memory (w : Nat) := List (Nat × BitVec w)

/-- The two buffers of the block that the host reaches by byte index (R50, R53). -/
inductive Buffer where
  | hdr
  | name
deriving DecidableEq, Repr

/-- One action of the host: a line of a host script (R78), or a reset (R210). The other lines of R78 and the
pseudo-commands of R79 are short for sequences of these (`Machine/Script.lean`). -/
inductive HostAction where
  /-- `WR <reg>, <value>`: a write of 32 bits to a register number; register 0 is CMD, so `WR CMD, w` runs the
  command word `w` (R20, R21). -/
  | wr (reg : Nat) (value : Word)
  /-- `RD <reg>`: a read of a register number (R20). -/
  | rd (reg : Nat)
  /-- `WRB HDR[j], <byte>` or `WRB NAME[j], <byte>` (R53). -/
  | wrb (buffer : Buffer) (j : Nat) (value : Byte)
  /-- `RDB HDR[j]` or `RDB NAME[j]` (R53). -/
  | rdb (buffer : Buffer) (j : Nat)
  /-- `WRP k, <byte>` (R52). -/
  | wrp (k : Word) (value : Byte)
  /-- `RDP k` (R52). -/
  | rdp (k : Word)
  /-- `WRC (r,c), (v0,v1,v2)`, channels 0, 1, 2 (R51). -/
  | wrc (row col : Dim) (v0 v1 v2 : Byte)
  /-- `RDC (r,c)` (R51). -/
  | rdc (row col : Dim)
  /-- `WRB HDR[j], b` or `WRB NAME[j], b` for the `b` of the read line before it, `RD BYTE -> b` (R156;
  assumption 16). -/
  | wrbRead (buffer : Buffer) (j : Nat)
  /-- `WRP k, b` for the `b` of the read line before it (R156; assumption 16). -/
  | wrpRead (k : Word)
  /-- The host resets the block between commands (R210, R216). -/
  | reset
deriving DecidableEq, Repr

/-- The state. -/
structure State where
  /-- The lines of the host's script that are still to be carried out, next one first (R78, R81; assumption 3).
  The model's own field: the block fetches nothing (R33). -/
  script : List HostAction
  /-- What the host's reads have returned, newest first (assumption 4). The model's own field. -/
  readBack : List Word
  /-- How many times the unspecified contents of HDR and NAME have been drawn (R42; assumption 2). The model's
  own field: it numbers the free values. -/
  draws : Nat
  /-- STATUS.ERR, register 1, bits 2:0 (R22). -/
  err : ErrCode
  /-- ERRINFO, register 2 (R23). -/
  errInfo : Word
  /-- ROWS, register 3 (R24). -/
  rows : Dim
  /-- COLS, register 4 (R25). -/
  cols : Dim
  /-- SIZE, register 5 (R26). -/
  size : Word
  /-- PLEN, register 6 (R27). -/
  plen : Word
  /-- IDX, register 7 (R28). -/
  idx : Word
  /-- BYTE, register 8 (R29). -/
  byte : Byte
  /-- TRIPLE, register 9 (R30). -/
  triple : Triple
  /-- PIX, register 10 (R31). -/
  pix : Pixel
  /-- NLEN, register 11 (R32). -/
  nlen : Byte
  /-- HDR, the header buffer (R35). -/
  hdr : Vector Byte 30
  /-- NAME, the filename buffer (R36). -/
  name : Vector Byte 255
  /-- CAR, the carrier image: the pixel at (row, col) is the element of index `row * 65536 + col` (R37, R51). -/
  car : Memory 24
  /-- PAY, the payload stream: byte `k` is the element of index `k` (R38, R52). -/
  pay : Memory 8
deriving DecidableEq, Repr

/-- A machine stop. There is none: the five error kinds are latched and the machine goes on (R184), no access
can fail (R65, R66) and nothing else can go wrong inside the block (R195). -/
inductive Fault
deriving DecidableEq, Repr

/-- Why a step has no meaning. -/
inductive Refusal where
  /-- Raised by an arm of `exec` whose instruction has no meaning yet; no arm raises it. Safe: the model stops. -/
  | notModelled (mnemonic : String)
deriving DecidableEq, Repr

/-- The outcome of a step of this machine. -/
abbrev Result := Host.Outcome State Fault Refusal

/-- The unspecified contents of HDR at the `n`-th draw (R42). -/
def drawnHdr (n : Nat) : Vector Byte 30 := Vector.ofFn fun j => Config.hdrDraw n j.val

/-- The unspecified contents of NAME at the `n`-th draw (R42). -/
def drawnName (n : Nat) : Vector Byte 255 := Vector.ofFn fun j => Config.nameDraw n j.val

/-- The machine right after reset: every register 0 (R41), HDR and NAME unspecified (R42, draw number 0), no
script pending (R211), CAR and PAY with nothing listed (R43 gives them no contents; assumption 1). -/
def State.reset : State where
  script := []
  readBack := []
  draws := 1
  err := 0#3
  errInfo := 0#32
  rows := 0#16
  cols := 0#16
  size := 0#32
  plen := 0#32
  idx := 0#32
  byte := 0#8
  triple := 0#10
  pix := 0#24
  nlen := 0#8
  hdr := drawnHdr 0
  name := drawnName 0
  car := []
  pay := []

/-! ### One replacement per field; `Laws/State.lean` says what each keeps -/

/-- The state with `script` replaced. -/
def State.setScript (s : State) (v : List HostAction) : State := { s with script := v }

/-- The state with `readBack` replaced. -/
def State.setReadBack (s : State) (v : List Word) : State := { s with readBack := v }

/-- The state with `rows` replaced. -/
def State.setRows (s : State) (v : Dim) : State := { s with rows := v }

/-- The state with `cols` replaced. -/
def State.setCols (s : State) (v : Dim) : State := { s with cols := v }

/-- The state with `size` replaced. -/
def State.setSize (s : State) (v : Word) : State := { s with size := v }

/-- The state with `plen` replaced. -/
def State.setPlen (s : State) (v : Word) : State := { s with plen := v }

/-- The state with `idx` replaced. -/
def State.setIdx (s : State) (v : Word) : State := { s with idx := v }

/-- The state with `byte` replaced. -/
def State.setByte (s : State) (v : Byte) : State := { s with byte := v }

/-- The state with `triple` replaced. -/
def State.setTriple (s : State) (v : Triple) : State := { s with triple := v }

/-- The state with `pix` replaced. -/
def State.setPix (s : State) (v : Pixel) : State := { s with pix := v }

/-- The state with `nlen` replaced. -/
def State.setNlen (s : State) (v : Byte) : State := { s with nlen := v }

/-- The state with `hdr` replaced. -/
def State.setHdr (s : State) (v : Vector Byte 30) : State := { s with hdr := v }

/-- The state with `name` replaced. -/
def State.setName (s : State) (v : Vector Byte 255) : State := { s with name := v }

/-- The state with `car` replaced. -/
def State.setCar (s : State) (v : Memory 24) : State := { s with car := v }

/-- The state with `pay` replaced. -/
def State.setPay (s : State) (v : Memory 8) : State := { s with pay := v }

/-- The state with the error latch, STATUS.ERR and ERRINFO replaced. -/
def State.setLatch (s : State) (v0 : ErrCode) (v1 : Word) : State := { s with err := v0, errInfo := v1 }

end Sys2Proof.Machine
end

