-- ==== Sys2Proof/Machine/Flags.lean ====
section
/-! DEFINITION. The one flag of the block, STATUS.ERR (R34), the five error kinds and their codes (R180), and the
STATUS register as the host reads it (R22). There is no carry, zero, sign or overflow flag (R34). -/

namespace Sys2Proof.Machine

/-- The error kinds of R180. -/
inductive ErrorKind where
  /-- raised by COMPOSE (R181) -/
  | sizeOverflow
  /-- raised by EMBED and STPIX (R182) -/
  | capacityOverflow
  /-- raised by PARSE and EXTRACT (R183) -/
  | malformedHeader
  /-- raised by EXTRACT and LDPIX (R185) -/
  | truncatedCarrier
  /-- raised by a write to CMD of a word that is no command (R186) -/
  | illegalCommand
deriving DecidableEq, Repr

/-- The code STATUS.ERR holds for a kind (R180). -/
def errorCode : ErrorKind → ErrCode
  | .sizeOverflow => 1#3
  | .capacityOverflow => 2#3
  | .malformedHeader => 3#3
  | .truncatedCarrier => 4#3
  | .illegalCommand => 5#3

/-- STATUS as it reads: ERR in bits 2:0, bits 31:3 zero (R22). -/
def statusWord (err : ErrCode) : Word := err.setWidth 32

end Sys2Proof.Machine
end

