-- ==== Sys2Proof/Machine/Operands.lean ====
section
/-! DEFINITION. The fields of the registers TRIPLE and PIX and the pure functions on operands: split, merge, pack,
unpack (41_bit_plane.md R110 to R117), dec8, undec8, name20, strip_us, parse_hdr (40_header_codec.md R91 to
R96). A command word has no operand fields (R71); these are the forms its fixed operands take. A byte string is
given by its byte at each index. -/

namespace Sys2Proof.Machine

/-! ### TRIPLE and PIX -/

/-- TRIPLE.G0, bits 9:5 (R30). -/
def tripleG0 (t : Triple) : BitVec 5 := t.extractLsb' 5 5

/-- TRIPLE.G1, bits 4:2 (R30). -/
def tripleG1 (t : Triple) : BitVec 3 := t.extractLsb' 2 3

/-- TRIPLE.G2, bits 1:0 (R30). -/
def tripleG2 (t : Triple) : BitVec 2 := t.extractLsb' 0 2

/-- The TRIPLE register with the three given fields (R30). -/
def tripleOf (g0 : BitVec 5) (g1 : BitVec 3) (g2 : BitVec 2) : Triple :=
  (g0.setWidth 10 <<< 5) ||| (g1.setWidth 10 <<< 2) ||| g2.setWidth 10

/-- PIX.CH0, bits 7:0 (R31). -/
def pixelCh0 (p : Pixel) : Byte := p.extractLsb' 0 8

/-- PIX.CH1, bits 15:8 (R31). -/
def pixelCh1 (p : Pixel) : Byte := p.extractLsb' 8 8

/-- PIX.CH2, bits 23:16 (R31). -/
def pixelCh2 (p : Pixel) : Byte := p.extractLsb' 16 8

/-- The pixel with the three given channels (R31, R51). -/
def pixelOf (c0 c1 c2 : Byte) : Pixel :=
  (c2.setWidth 24 <<< 16) ||| (c1.setWidth 24 <<< 8) ||| c0.setWidth 24

/-! ### The byte splitter and merger -/

/-- group0 of `split n`: `n >> 5` (R110). -/
def group0 (n : Byte) : Byte := n >>> 5

/-- group1 of `split n`: `(n >> 2) & 0b111` (R110). -/
def group1 (n : Byte) : Byte := (n >>> 2) &&& 0b111#8

/-- group2 of `split n`: `n & 0b11` (R110). -/
def group2 (n : Byte) : Byte := n &&& 0b11#8

/-- `merge g0 g1 g2 = ((g0 << 3 | g1) << 2) | g2` (R111). -/
def mergeGroups (g0 g1 g2 : Byte) : Byte := (((g0 <<< 3) ||| g1) <<< 2) ||| g2

/-- The triple SPLIT makes of a byte (R113). -/
def splitByte (n : Byte) : Triple :=
  tripleOf ((group0 n).setWidth 5) ((group1 n).setWidth 3) ((group2 n).setWidth 2)

/-- The byte MERGE makes of a triple: bits 4:3 of G0 are ignored (R114). -/
def mergeTriple (t : Triple) : Byte :=
  mergeGroups (((tripleG0 t).setWidth 3).setWidth 8) ((tripleG1 t).setWidth 8) ((tripleG2 t).setWidth 8)

/-! ### The pixel packer and unpacker -/

/-- `free_bits ch`: how many low bits of a channel carry data, 3, 3 and 2 (R5, R115). -/
def freeBits : Nat → Nat
  | 0 => 3
  | 1 => 3
  | _ => 2

/-- One lane of `pack`: clear the low free bits of the channel, then OR in the group (R116). -/
def packChannel (ch : Nat) (c g : Byte) : Byte := ((c >>> freeBits ch) <<< freeBits ch) ||| g

/-- One lane of `unpack`: mask the channel with `(1 << free_bits) - 1` (R117). -/
def unpackChannel (ch : Nat) (c : Byte) : Byte := c &&& ((1#8 <<< freeBits ch) - 1#8)

/-- `pack p n` (R116). -/
def packPixel (p : Pixel) (n : Byte) : Pixel :=
  pixelOf (packChannel 0 (pixelCh0 p) (group0 n)) (packChannel 1 (pixelCh1 p) (group1 n))
    (packChannel 2 (pixelCh2 p) (group2 n))

/-- `unpack p` (R117). -/
def unpackPixel (p : Pixel) : Byte :=
  mergeGroups (unpackChannel 0 (pixelCh0 p)) (unpackChannel 1 (pixelCh1 p)) (unpackChannel 2 (pixelCh2 p))

/-! ### The header codec -/

/-- Byte `k` of `dec8 v`: the decimal digit of weight `10^(7-k)` (R91). -/
def dec8 (v k : Nat) : Byte := BitVec.ofNat 8 (0x30 + v / 10 ^ (7 - k) % 10)

/-- A byte that is a decimal digit (R92). -/
def isDigit (b : Byte) : Bool := decide (Config.digitZero ≤ b) && decide (b ≤ Config.digitNine)

/-- `undec8 d`: the index of the first byte that is no digit (`bad k`), else the number the eight digits state
(`ok v`) (R92). -/
def undec8 (d : Nat → Byte) : Except Nat Nat :=
  match (List.range 8).find? (fun k => !isDigit (d k)) with
  | some k => .error k
  | none => .ok ((List.range 8).map fun k => ((d k).toNat - 0x30) * 10 ^ (7 - k)).sum

/-- Byte `j` of `name20 s L`: the name right-aligned in 20 characters, left-padded with underscores, a long name
cut to its last 20 bytes (R93). -/
def name20 (s : Nat → Byte) (L j : Nat) : Byte :=
  if 20 ≤ L then s (L - 20 + j) else if j < 20 - L then Config.underscore else s (j - (20 - L))

/-- The first index of `f[0..19]` whose byte is no underscore (R94). -/
def firstKept (f : Nat → Byte) : Option Nat := (List.range 20).find? fun j => f j != Config.underscore

/-- The last index of `f[0..19]` whose byte is no underscore (R94). -/
def lastKept (f : Nat → Byte) : Option Nat := (List.range 20).reverse.find? fun j => f j != Config.underscore

/-- `strip_us f`: `f[0..19]` without its leading and trailing underscores, first byte first (R94). -/
def stripUs (f : Nat → Byte) : List Byte :=
  match firstKept f, lastKept f with
  | some a, some b => (List.range (b - a + 1)).map fun j => f (a + j)
  | _, _ => []

/-- `parse_hdr h`: the index of the offending header byte, or the size and the filename. Byte 0 is checked before
byte 29, byte 29 before bytes 1 to 8 (R96). -/
def parseHdr (h : Nat → Byte) : Except Nat (Nat × List Byte) :=
  if h 0 ≠ Config.startMark then .error 0
  else if h 29 ≠ Config.endMark then .error 29
  else
    match undec8 (fun k => h (1 + k)) with
    | .error k => .error (1 + k)
    | .ok v => .ok (v, stripUs fun j => h (9 + j))

/-- Header byte `j` of the header COMPOSE builds from a size and a name of `L` bytes (R90, R95). -/
def composedByte (size : Nat) (s : Nat → Byte) (L j : Nat) : Byte :=
  if j = 0 then Config.startMark
  else if j < 9 then dec8 size (j - 1)
  else if j < 29 then name20 s L (j - 9)
  else Config.endMark

end Sys2Proof.Machine
end

