-- ==== Sys2Proof/Machine/Ops.lean ====
section
/-! DEFINITION. The named operations over memories, buffers and registers, and the error latch: raising an error
(R184), the gate it puts before every later command (R188) and clearing it (R171, R191). -/

namespace Sys2Proof.Machine

/-! ### Memories CAR and PAY (20_memory.md) -/

/-- The canonical form of a memory: indices strictly rising, every one an index of the space, no listed element
equal to what an unlisted index reads as. -/
abbrev Memory.wf {w : Nat} (m : Memory w) : Prop :=
  m.Pairwise (fun a b => a.1 < b.1) ∧ ∀ c ∈ m, c.1 < Config.spaceSize ∧ c.2 ≠ Config.unlisted w

/-- Read the element of index `k`. A read has no side effect and never fails (R59, R66). -/
def Memory.read {w : Nat} : Memory w → Nat → BitVec w
  | [], _ => Config.unlisted w
  | c :: m, k => if c.1 = k then c.2 else Memory.read m k

/-- The memory without an element of index `k`. -/
def Memory.erase {w : Nat} (m : Memory w) (k : Nat) : Memory w := m.filter fun c => decide (c.1 ≠ k)

/-- List an element before the first one of a larger index. -/
def Memory.place {w : Nat} : Memory w → Nat → BitVec w → Memory w
  | [], k, v => [(k, v)]
  | c :: m, k, v => if k < c.1 then (k, v) :: c :: m else c :: Memory.place m k v

/-- Write the element of index `k`: exactly that element changes (R59). Writing what an unlisted index reads as
removes the element, so that equal memories are equal data. -/
def Memory.write {w : Nat} (m : Memory w) (k : Nat) (v : BitVec w) : Memory w :=
  if v = Config.unlisted w then m.erase k else (m.erase k).place k v

/-- The index under which CAR holds the pixel (row, col) (R50, R51). -/
def carIndex (row col : Dim) : Nat := row.toNat * 65536 + col.toNat

/-- `MemRead(CAR, (row, col), 3)` (R51). -/
def carRead (m : Memory 24) (row col : Dim) : Pixel := m.read (carIndex row col)

/-- `MemWrite(CAR, (row, col), 3, p)` (R51). -/
def carWrite (m : Memory 24) (row col : Dim) (p : Pixel) : Memory 24 := m.write (carIndex row col) p

/-- `MemRead(PAY, k, 1)` (R52). -/
def payRead (m : Memory 8) (k : Word) : Byte := m.read k.toNat

/-- `MemWrite(PAY, k, 1, b)` (R52). -/
def payWrite (m : Memory 8) (k : Word) (b : Byte) : Memory 8 := m.write k.toNat b

/-! ### The raster order (42_pixel_iterator.md R130, R131) -/

/-- NPIX = ROWS * COLS, worked out exactly (R40, R131). -/
def State.npix (s : State) : Nat := s.rows.toNat * s.cols.toNat

/-- The row of raster index `i`: `i / COLS` (R130). -/
def rasterRow (cols : Dim) (i : Nat) : Dim := BitVec.ofNat 16 (i / cols.toNat)

/-- The column of raster index `i`: `i % COLS` (R130). -/
def rasterCol (cols : Dim) (i : Nat) : Dim := BitVec.ofNat 16 (i % cols.toNat)

/-- `CAR[i]`, the pixel of raster index `i` (R130). -/
def pixelAt (cols : Dim) (m : Memory 24) (i : Nat) : Pixel := carRead m (rasterRow cols i) (rasterCol cols i)

/-- Write the pixel of raster index `i` (R130). -/
def setPixelAt (cols : Dim) (m : Memory 24) (i : Nat) (p : Pixel) : Memory 24 :=
  carWrite m (rasterRow cols i) (rasterCol cols i) p

/-! ### Buffers HDR and NAME (R35, R36, R53) -/

/-- Read byte `j` of a buffer; an index outside it reads 0 (R53). -/
def bufRead {n : Nat} (b : Vector Byte n) (j : Nat) : Byte := if h : j < n then b[j] else 0#8

/-- Write byte `j` of a buffer; an index outside it does nothing (R53). -/
def bufWrite {n : Nat} (b : Vector Byte n) (j : Nat) (v : Byte) : Vector Byte n := b.setIfInBounds j v

/-- Write the first bytes of a buffer, `b[0 .. l.length - 1] <- l`; the rest stay (R36, R97). -/
def bufStore {n : Nat} (b : Vector Byte n) (l : List Byte) : Vector Byte n :=
  Vector.ofFn fun j => l.getD j.val b[j]

/-- The header buffer with byte `j` equal to `f j` for every `j` (R95, R153). -/
def hdrOf (f : Nat → Byte) : Vector Byte 30 := Vector.ofFn fun j => f j.val

/-! ### The register port (10_state.md R20 to R32) -/

/-- `x[n]`: the register's value in the low bits, zero above. CMD reads 0 (R21), and so does a number above 11
(R20). -/
def readReg (s : State) : Nat → Word
  | 1 => statusWord s.err
  | 2 => s.errInfo
  | 3 => s.rows.setWidth 32
  | 4 => s.cols.setWidth 32
  | 5 => s.size
  | 6 => s.plen
  | 7 => s.idx
  | 8 => s.byte.setWidth 32
  | 9 => s.triple.setWidth 32
  | 10 => s.pix.setWidth 32
  | 11 => s.nlen.setWidth 32
  | _ => 0#32

/-- `x[n] <- v` for a register other than CMD: the register keeps the low bits that fit. A write to a read-only
register (STATUS, ERRINFO) or to a number above 11 does nothing (R20). A write to CMD runs a command and is
not of this operation (R21, `runCommand`). -/
def writeReg (s : State) (n : Nat) (v : Word) : State :=
  match n with
  | 3 => s.setRows (v.setWidth 16)
  | 4 => s.setCols (v.setWidth 16)
  | 5 => s.setSize v
  | 6 => s.setPlen v
  | 7 => s.setIdx v
  | 8 => s.setByte (v.setWidth 8)
  | 9 => s.setTriple (v.setWidth 10)
  | 10 => s.setPix (v.setWidth 24)
  | 11 => s.setNlen (v.setWidth 8)
  | _ => s

/-- Host read of one buffer byte (R53). -/
def readBuffer (s : State) : Buffer → Nat → Byte
  | .hdr, j => bufRead s.hdr j
  | .name, j => bufRead s.name j

/-- Host write of one buffer byte (R53). -/
def writeBuffer (s : State) (b : Buffer) (j : Nat) (v : Byte) : State :=
  match b with
  | .hdr => s.setHdr (bufWrite s.hdr j v)
  | .name => s.setName (bufWrite s.name j v)

/-- The host has read a value (assumption 4). -/
def State.seen (s : State) (v : Word) : State := s.setReadBack (v :: s.readBack)

/-- The host goes on with the value it has read last; with no reading it does nothing (assumption 16). -/
def withLastRead (s : State) (body : Word → State) : State :=
  match s.readBack with
  | [] => s
  | v :: _ => body v

/-! ### The error latch (60_exceptions.md) -/

/-- `raise E(info)`: taking an error. If no error is latched, STATUS.ERR becomes the code of `E` and ERRINFO the
offending value. Nothing is saved and control goes nowhere (R184). -/
def raise (e : ErrorKind) (info : Word) (s : State) : State :=
  if s.err = 0#3 then s.setLatch (errorCode e) info else s

/-- The way back: clear the latch. Nothing else is restored or run again (R171, R191). -/
def clearLatch (s : State) : State := s.setLatch 0#3 0#32

/-- A command runs only while no error is latched; otherwise it does nothing at all (R188). -/
def whenClear (body : State → State) (s : State) : State := if s.err = 0#3 then body s else s

/-! ### Reset (70_reset_and_hazards.md R210) -/

/-- The host resets the block: every register takes its reset value (R41), HDR and NAME are drawn anew (R42), CAR
and PAY stay (R43). The host's script and what the host has read are the host's own and stay. -/
def hostReset (s : State) : State :=
  { State.reset with
    hdr := drawnHdr s.draws
    name := drawnName s.draws
    draws := s.draws + 1
    car := s.car
    pay := s.pay
    script := s.script
    readBack := s.readBack }

end Sys2Proof.Machine
end

