-- ==== Sys2Proof/Machine/BitPlane.lean ====
section
/-! DEFINITION. The byte splitter and merger and the pixel packer and unpacker: SPLIT, MERGE, PACK, UNPACK
(41_bit_plane.md). -/

namespace Sys2Proof.Machine

/-- SPLIT: `TRIPLE <- split(BYTE)` (R113). -/
def execSplit (s : State) : Result := .next (whenClear (fun s => s.setTriple (splitByte s.byte)) s)

/-- MERGE: `BYTE <- merge(TRIPLE.G0[2:0], TRIPLE.G1, TRIPLE.G2)` (R114). -/
def execMerge (s : State) : Result := .next (whenClear (fun s => s.setByte (mergeTriple s.triple)) s)

/-- PACK: `PIX <- pack(PIX, BYTE)` (R118). -/
def execPack (s : State) : Result := .next (whenClear (fun s => s.setPix (packPixel s.pix s.byte)) s)

/-- UNPACK: `BYTE <- unpack(PIX)` (R119). -/
def execUnpack (s : State) : Result := .next (whenClear (fun s => s.setByte (unpackPixel s.pix)) s)

end Sys2Proof.Machine
end

