-- ==== Sys2Proof/Machine/Control.lean ====
section
/-! DEFINITION. The control commands NOP and CLRERR (44_control.md), and what a command word that encodes no
command does (30_encoding.md R73, R74). -/

namespace Sys2Proof.Machine

/-- NOP does nothing (R170). -/
def execNop (s : State) : Result := .next (whenClear (fun s => s) s)

/-- CLRERR clears the error latch; it is the only command that has an effect while an error is latched (R171). -/
def execClrerr (s : State) : Result := .next (clearLatch s)

/-- A word that is no command raises IllegalCommand with the word as the offending value, unless an error is
already latched (R73, R74, R186, R188). -/
def execIllegal (w : Word) (s : State) : Result := .next (whenClear (raise .illegalCommand w) s)

end Sys2Proof.Machine
end

