-- ==== Sys2Proof/Machine/PixelIterator.lean ====
section
/-! DEFINITION. The raster-order pixel iterator: IRST, INEXT, LDPIX, STPIX (42_pixel_iterator.md). -/

namespace Sys2Proof.Machine

/-- IRST: `IDX <- 0` (R132). -/
def execIrst (s : State) : Result := .next (whenClear (fun s => s.setIdx 0#32) s)

/-- INEXT: `IDX <- (IDX + 1) mod 2^32` (R133). -/
def execInext (s : State) : Result := .next (whenClear (fun s => s.setIdx (s.idx + 1#32)) s)

/-- What LDPIX does when it runs (R134). -/
def loadPixel (s : State) : State :=
  if s.npix ≤ s.idx.toNat then raise .truncatedCarrier s.idx s
  else s.setPix (pixelAt s.cols s.car s.idx.toNat)

/-- LDPIX: PIX takes the pixel at index IDX, or TruncatedCarrier is raised (R134). -/
def execLdpix (s : State) : Result := .next (whenClear loadPixel s)

/-- What STPIX does when it runs (R135). -/
def storePixel (s : State) : State :=
  if s.npix ≤ s.idx.toNat then raise .capacityOverflow s.idx s
  else s.setCar (setPixelAt s.cols s.car s.idx.toNat s.pix)

/-- STPIX: the pixel at index IDX takes PIX, or CapacityOverflow is raised (R135). -/
def execStpix (s : State) : Result := .next (whenClear storePixel s)

end Sys2Proof.Machine
end

