-- ==== Sys2Proof/Machine/HeaderCodec.lean ====
section
/-! DEFINITION. The header codec: COMPOSE, PARSE (40_header_codec.md). -/

namespace Sys2Proof.Machine

/-- What COMPOSE does when it runs: it builds the header of SIZE and NAME[0..NLEN-1] in HDR (R95). -/
def composeHeader (s : State) : State :=
  if Config.sizeMax < s.size.toNat then raise .sizeOverflow s.size s
  else s.setHdr (hdrOf (composedByte s.size.toNat (bufRead s.name) s.nlen.toNat))

/-- COMPOSE (R95). -/
def execCompose (s : State) : Result := .next (whenClear composeHeader s)

/-- Deliver a parsed header: `SIZE <- v ; NAME[0..n-1] <- name ; NLEN <- n` (R97, R153). -/
def deliverHeader (v : Nat) (name : List Byte) (s : State) : State :=
  ((s.setSize (BitVec.ofNat 32 v)).setName (bufStore s.name name)).setNlen (BitVec.ofNat 8 name.length)

/-- What PARSE does when it runs (R97). -/
def parseHeader (s : State) : State :=
  match parseHdr (bufRead s.hdr) with
  | .error j => raise .malformedHeader (BitVec.ofNat 32 j) s
  | .ok (v, name) => deliverHeader v name s

/-- PARSE (R97). -/
def execParse (s : State) : Result := .next (whenClear parseHeader s)

end Sys2Proof.Machine
end

