-- ==== Sys2Proof/Machine/Stream.lean ====
section
/-! DEFINITION. Whole-stream embedding and extraction: EMBED, EXTRACT (43_stream.md). Each is one atomic step
(R2), however many pixels it touches; their loops are counted (R158) and run in ascending order (R61). -/

namespace Sys2Proof.Machine

/-- `stream_byte i`: header byte `i` for `i < 30`, payload byte `i - 30` from there on (R151). -/
def streamByte (hdr : Vector Byte 30) (pay : Memory 8) (i : Nat) : Byte :=
  if i < 30 then bufRead hdr i else payRead pay (BitVec.ofNat 32 (i - 30))

/-- The carrier after the first `n` turns of EMBED's loop: turn `i` packs byte `b i` into the pixel of raster
index `i` (R150). -/
def embedTurns (cols : Dim) (b : Nat → Byte) (car : Memory 24) : Nat → Memory 24
  | 0 => car
  | i + 1 =>
    let m := embedTurns cols b car i
    setPixelAt cols m i (packPixel (pixelAt cols m i) (b i))

/-- What EMBED does when it runs: one capacity test on the exact sum, then the loop (R150, R152). -/
def embedStream (s : State) : State :=
  if s.npix < 30 + s.plen.toNat then raise .capacityOverflow s.plen s
  else (s.setCar (embedTurns s.cols (streamByte s.hdr s.pay) s.car (30 + s.plen.toNat))).setIdx
    (BitVec.ofNat 32 (30 + s.plen.toNat))

/-- EMBED (R150). -/
def execEmbed (s : State) : Result := .next (whenClear embedStream s)

/-- The byte hidden in the pixel of raster index `i` (R117, R153). -/
def hiddenByte (cols : Dim) (car : Memory 24) (i : Nat) : Byte := unpackPixel (pixelAt cols car i)

/-- PAY after the first `n` turns of EXTRACT's payload loop: turn `k` writes the byte hidden at index `30 + k`
(R153). -/
def extractTurns (cols : Dim) (car : Memory 24) (pay : Memory 8) : Nat → Memory 8
  | 0 => pay
  | k + 1 => payWrite (extractTurns cols car pay k) (BitVec.ofNat 32 k) (hiddenByte cols car (30 + k))

/-- The second phase of EXTRACT, after the header has parsed to a size and a name (R153, R154). -/
def extractPayload (v : Nat) (name : List Byte) (s : State) : State :=
  let s := deliverHeader v name s
  if s.npix < 30 + v then raise .truncatedCarrier (BitVec.ofNat 32 (30 + v)) s
  else ((s.setPay (extractTurns s.cols s.car s.pay v)).setPlen (BitVec.ofNat 32 v)).setIdx
    (BitVec.ofNat 32 (30 + v))

/-- The first phase of EXTRACT: recover the 30 header bytes into HDR, leave IDX at 30 (R153). -/
def recoverHeader (s : State) : State := (s.setHdr (hdrOf (hiddenByte s.cols s.car))).setIdx 30#32

/-- What EXTRACT does when it runs (R153, R154). -/
def extractStream (s : State) : State :=
  if s.npix < 30 then raise .truncatedCarrier 30#32 s
  else
    match parseHdr (bufRead (recoverHeader s).hdr) with
    | .error j => raise .malformedHeader (BitVec.ofNat 32 j) (recoverHeader s)
    | .ok (v, name) => extractPayload v name (recoverHeader s)

/-- EXTRACT (R153). -/
def execExtract (s : State) : Result := .next (whenClear extractStream s)

end Sys2Proof.Machine
end

