-- ==== Sys2Proof/Machine/Dispatch.lean ====
section
/-! DEFINITION. The meaning of each command, one arm per constructor. -/

namespace Sys2Proof.Machine

def exec (i : Instr) (s : State) : Host.Outcome State Fault Refusal :=
  match i with
  | .nop => Sys2Proof.Machine.execNop s
  | .split => Sys2Proof.Machine.execSplit s
  | .merge => Sys2Proof.Machine.execMerge s
  | .pack => Sys2Proof.Machine.execPack s
  | .unpack => Sys2Proof.Machine.execUnpack s
  | .ldpix => Sys2Proof.Machine.execLdpix s
  | .stpix => Sys2Proof.Machine.execStpix s
  | .inext => Sys2Proof.Machine.execInext s
  | .compose => Sys2Proof.Machine.execCompose s
  | .parse => Sys2Proof.Machine.execParse s
  | .embed => Sys2Proof.Machine.execEmbed s
  | .extract => Sys2Proof.Machine.execExtract s
  | .irst => Sys2Proof.Machine.execIrst s
  | .clrerr => Sys2Proof.Machine.execClrerr s

end Sys2Proof.Machine
end

