-- ==== Sys2Proof/Machine/Command.lean ====
section
/-! DEFINITION. One action of the host: a write to CMD runs a command (R21, R77), every other action reads or
writes the register port, a buffer or a memory, or resets the block (R78, R210, R216). -/

namespace Sys2Proof.Machine

/-- A write of word `w` to CMD (R77): the command the word encodes, else IllegalCommand. The gate that a latched
error puts before each is in the meanings themselves (`whenClear`, R188). -/
def runCommand (w : Word) (s : State) : Result :=
  match decode w with
  | some i => exec i s
  | none => execIllegal w s

/-- Carry out one action of the host (R20, R21, R51 to R53, R78, R156, R210). A read changes nothing but what the host
has seen (R59). -/
def doAction (a : HostAction) (s : State) : Result :=
  match a with
  | .wr n v => if n = 0 then runCommand v s else .next (writeReg s n v)
  | .rd n => .next (s.seen (readReg s n))
  | .wrb b j v => .next (writeBuffer s b j v)
  | .rdb b j => .next (s.seen ((readBuffer s b j).setWidth 32))
  | .wrp k v => .next (s.setPay (payWrite s.pay k v))
  | .rdp k => .next (s.seen ((payRead s.pay k).setWidth 32))
  | .wrc r c v0 v1 v2 => .next (s.setCar (carWrite s.car r c (pixelOf v0 v1 v2)))
  | .rdc r c => .next (s.seen ((carRead s.car r c).setWidth 32))
  | .wrbRead b j => .next (withLastRead s fun v => writeBuffer s b j (v.setWidth 8))
  | .wrpRead k => .next (withLastRead s fun v => s.setPay (payWrite s.pay k (v.setWidth 8)))
  | .reset => .next (hostReset s)

/-- Carry out the next line of the host's script (R78). With no line left the run has ended (R81): the block does
nothing of its own, so the state stays (assumption 3). -/
def nextLine (s : State) : Result :=
  match s.script with
  | [] => .next s
  | a :: rest => doAction a (s.setScript rest)

/-- The host writes the word `w` to CMD next. -/
def withCommand (s : State) (w : Word) : State := s.setScript (.wr 0 w :: s.script)

end Sys2Proof.Machine
end

