-- ==== Sys2Proof/Laws/State.lean ====
section
/-! SUPPORT. What each replacement of a field of State sets and keeps: one lemma per field per replacement. -/

namespace Sys2Proof.Machine

section

variable (s : State) (v : List HostAction)

@[simp] theorem State.setScript_script : (s.setScript v).script = v := rfl
@[simp] theorem State.setScript_readBack : (s.setScript v).readBack = s.readBack := rfl
@[simp] theorem State.setScript_draws : (s.setScript v).draws = s.draws := rfl
@[simp] theorem State.setScript_err : (s.setScript v).err = s.err := rfl
@[simp] theorem State.setScript_errInfo : (s.setScript v).errInfo = s.errInfo := rfl
@[simp] theorem State.setScript_rows : (s.setScript v).rows = s.rows := rfl
@[simp] theorem State.setScript_cols : (s.setScript v).cols = s.cols := rfl
@[simp] theorem State.setScript_size : (s.setScript v).size = s.size := rfl
@[simp] theorem State.setScript_plen : (s.setScript v).plen = s.plen := rfl
@[simp] theorem State.setScript_idx : (s.setScript v).idx = s.idx := rfl
@[simp] theorem State.setScript_byte : (s.setScript v).byte = s.byte := rfl
@[simp] theorem State.setScript_triple : (s.setScript v).triple = s.triple := rfl
@[simp] theorem State.setScript_pix : (s.setScript v).pix = s.pix := rfl
@[simp] theorem State.setScript_nlen : (s.setScript v).nlen = s.nlen := rfl
@[simp] theorem State.setScript_hdr : (s.setScript v).hdr = s.hdr := rfl
@[simp] theorem State.setScript_name : (s.setScript v).name = s.name := rfl
@[simp] theorem State.setScript_car : (s.setScript v).car = s.car := rfl
@[simp] theorem State.setScript_pay : (s.setScript v).pay = s.pay := rfl

end

section

variable (s : State) (v : List Word)

@[simp] theorem State.setReadBack_script : (s.setReadBack v).script = s.script := rfl
@[simp] theorem State.setReadBack_readBack : (s.setReadBack v).readBack = v := rfl
@[simp] theorem State.setReadBack_draws : (s.setReadBack v).draws = s.draws := rfl
@[simp] theorem State.setReadBack_err : (s.setReadBack v).err = s.err := rfl
@[simp] theorem State.setReadBack_errInfo : (s.setReadBack v).errInfo = s.errInfo := rfl
@[simp] theorem State.setReadBack_rows : (s.setReadBack v).rows = s.rows := rfl
@[simp] theorem State.setReadBack_cols : (s.setReadBack v).cols = s.cols := rfl
@[simp] theorem State.setReadBack_size : (s.setReadBack v).size = s.size := rfl
@[simp] theorem State.setReadBack_plen : (s.setReadBack v).plen = s.plen := rfl
@[simp] theorem State.setReadBack_idx : (s.setReadBack v).idx = s.idx := rfl
@[simp] theorem State.setReadBack_byte : (s.setReadBack v).byte = s.byte := rfl
@[simp] theorem State.setReadBack_triple : (s.setReadBack v).triple = s.triple := rfl
@[simp] theorem State.setReadBack_pix : (s.setReadBack v).pix = s.pix := rfl
@[simp] theorem State.setReadBack_nlen : (s.setReadBack v).nlen = s.nlen := rfl
@[simp] theorem State.setReadBack_hdr : (s.setReadBack v).hdr = s.hdr := rfl
@[simp] theorem State.setReadBack_name : (s.setReadBack v).name = s.name := rfl
@[simp] theorem State.setReadBack_car : (s.setReadBack v).car = s.car := rfl
@[simp] theorem State.setReadBack_pay : (s.setReadBack v).pay = s.pay := rfl

end

section

variable (s : State) (v : Dim)

@[simp] theorem State.setRows_script : (s.setRows v).script = s.script := rfl
@[simp] theorem State.setRows_readBack : (s.setRows v).readBack = s.readBack := rfl
@[simp] theorem State.setRows_draws : (s.setRows v).draws = s.draws := rfl
@[simp] theorem State.setRows_err : (s.setRows v).err = s.err := rfl
@[simp] theorem State.setRows_errInfo : (s.setRows v).errInfo = s.errInfo := rfl
@[simp] theorem State.setRows_rows : (s.setRows v).rows = v := rfl
@[simp] theorem State.setRows_cols : (s.setRows v).cols = s.cols := rfl
@[simp] theorem State.setRows_size : (s.setRows v).size = s.size := rfl
@[simp] theorem State.setRows_plen : (s.setRows v).plen = s.plen := rfl
@[simp] theorem State.setRows_idx : (s.setRows v).idx = s.idx := rfl
@[simp] theorem State.setRows_byte : (s.setRows v).byte = s.byte := rfl
@[simp] theorem State.setRows_triple : (s.setRows v).triple = s.triple := rfl
@[simp] theorem State.setRows_pix : (s.setRows v).pix = s.pix := rfl
@[simp] theorem State.setRows_nlen : (s.setRows v).nlen = s.nlen := rfl
@[simp] theorem State.setRows_hdr : (s.setRows v).hdr = s.hdr := rfl
@[simp] theorem State.setRows_name : (s.setRows v).name = s.name := rfl
@[simp] theorem State.setRows_car : (s.setRows v).car = s.car := rfl
@[simp] theorem State.setRows_pay : (s.setRows v).pay = s.pay := rfl

end

section

variable (s : State) (v : Dim)

@[simp] theorem State.setCols_script : (s.setCols v).script = s.script := rfl
@[simp] theorem State.setCols_readBack : (s.setCols v).readBack = s.readBack := rfl
@[simp] theorem State.setCols_draws : (s.setCols v).draws = s.draws := rfl
@[simp] theorem State.setCols_err : (s.setCols v).err = s.err := rfl
@[simp] theorem State.setCols_errInfo : (s.setCols v).errInfo = s.errInfo := rfl
@[simp] theorem State.setCols_rows : (s.setCols v).rows = s.rows := rfl
@[simp] theorem State.setCols_cols : (s.setCols v).cols = v := rfl
@[simp] theorem State.setCols_size : (s.setCols v).size = s.size := rfl
@[simp] theorem State.setCols_plen : (s.setCols v).plen = s.plen := rfl
@[simp] theorem State.setCols_idx : (s.setCols v).idx = s.idx := rfl
@[simp] theorem State.setCols_byte : (s.setCols v).byte = s.byte := rfl
@[simp] theorem State.setCols_triple : (s.setCols v).triple = s.triple := rfl
@[simp] theorem State.setCols_pix : (s.setCols v).pix = s.pix := rfl
@[simp] theorem State.setCols_nlen : (s.setCols v).nlen = s.nlen := rfl
@[simp] theorem State.setCols_hdr : (s.setCols v).hdr = s.hdr := rfl
@[simp] theorem State.setCols_name : (s.setCols v).name = s.name := rfl
@[simp] theorem State.setCols_car : (s.setCols v).car = s.car := rfl
@[simp] theorem State.setCols_pay : (s.setCols v).pay = s.pay := rfl

end

section

variable (s : State) (v : Word)

@[simp] theorem State.setSize_script : (s.setSize v).script = s.script := rfl
@[simp] theorem State.setSize_readBack : (s.setSize v).readBack = s.readBack := rfl
@[simp] theorem State.setSize_draws : (s.setSize v).draws = s.draws := rfl
@[simp] theorem State.setSize_err : (s.setSize v).err = s.err := rfl
@[simp] theorem State.setSize_errInfo : (s.setSize v).errInfo = s.errInfo := rfl
@[simp] theorem State.setSize_rows : (s.setSize v).rows = s.rows := rfl
@[simp] theorem State.setSize_cols : (s.setSize v).cols = s.cols := rfl
@[simp] theorem State.setSize_size : (s.setSize v).size = v := rfl
@[simp] theorem State.setSize_plen : (s.setSize v).plen = s.plen := rfl
@[simp] theorem State.setSize_idx : (s.setSize v).idx = s.idx := rfl
@[simp] theorem State.setSize_byte : (s.setSize v).byte = s.byte := rfl
@[simp] theorem State.setSize_triple : (s.setSize v).triple = s.triple := rfl
@[simp] theorem State.setSize_pix : (s.setSize v).pix = s.pix := rfl
@[simp] theorem State.setSize_nlen : (s.setSize v).nlen = s.nlen := rfl
@[simp] theorem State.setSize_hdr : (s.setSize v).hdr = s.hdr := rfl
@[simp] theorem State.setSize_name : (s.setSize v).name = s.name := rfl
@[simp] theorem State.setSize_car : (s.setSize v).car = s.car := rfl
@[simp] theorem State.setSize_pay : (s.setSize v).pay = s.pay := rfl

end

section

variable (s : State) (v : Word)

@[simp] theorem State.setPlen_script : (s.setPlen v).script = s.script := rfl
@[simp] theorem State.setPlen_readBack : (s.setPlen v).readBack = s.readBack := rfl
@[simp] theorem State.setPlen_draws : (s.setPlen v).draws = s.draws := rfl
@[simp] theorem State.setPlen_err : (s.setPlen v).err = s.err := rfl
@[simp] theorem State.setPlen_errInfo : (s.setPlen v).errInfo = s.errInfo := rfl
@[simp] theorem State.setPlen_rows : (s.setPlen v).rows = s.rows := rfl
@[simp] theorem State.setPlen_cols : (s.setPlen v).cols = s.cols := rfl
@[simp] theorem State.setPlen_size : (s.setPlen v).size = s.size := rfl
@[simp] theorem State.setPlen_plen : (s.setPlen v).plen = v := rfl
@[simp] theorem State.setPlen_idx : (s.setPlen v).idx = s.idx := rfl
@[simp] theorem State.setPlen_byte : (s.setPlen v).byte = s.byte := rfl
@[simp] theorem State.setPlen_triple : (s.setPlen v).triple = s.triple := rfl
@[simp] theorem State.setPlen_pix : (s.setPlen v).pix = s.pix := rfl
@[simp] theorem State.setPlen_nlen : (s.setPlen v).nlen = s.nlen := rfl
@[simp] theorem State.setPlen_hdr : (s.setPlen v).hdr = s.hdr := rfl
@[simp] theorem State.setPlen_name : (s.setPlen v).name = s.name := rfl
@[simp] theorem State.setPlen_car : (s.setPlen v).car = s.car := rfl
@[simp] theorem State.setPlen_pay : (s.setPlen v).pay = s.pay := rfl

end

section

variable (s : State) (v : Word)

@[simp] theorem State.setIdx_script : (s.setIdx v).script = s.script := rfl
@[simp] theorem State.setIdx_readBack : (s.setIdx v).readBack = s.readBack := rfl
@[simp] theorem State.setIdx_draws : (s.setIdx v).draws = s.draws := rfl
@[simp] theorem State.setIdx_err : (s.setIdx v).err = s.err := rfl
@[simp] theorem State.setIdx_errInfo : (s.setIdx v).errInfo = s.errInfo := rfl
@[simp] theorem State.setIdx_rows : (s.setIdx v).rows = s.rows := rfl
@[simp] theorem State.setIdx_cols : (s.setIdx v).cols = s.cols := rfl
@[simp] theorem State.setIdx_size : (s.setIdx v).size = s.size := rfl
@[simp] theorem State.setIdx_plen : (s.setIdx v).plen = s.plen := rfl
@[simp] theorem State.setIdx_idx : (s.setIdx v).idx = v := rfl
@[simp] theorem State.setIdx_byte : (s.setIdx v).byte = s.byte := rfl
@[simp] theorem State.setIdx_triple : (s.setIdx v).triple = s.triple := rfl
@[simp] theorem State.setIdx_pix : (s.setIdx v).pix = s.pix := rfl
@[simp] theorem State.setIdx_nlen : (s.setIdx v).nlen = s.nlen := rfl
@[simp] theorem State.setIdx_hdr : (s.setIdx v).hdr = s.hdr := rfl
@[simp] theorem State.setIdx_name : (s.setIdx v).name = s.name := rfl
@[simp] theorem State.setIdx_car : (s.setIdx v).car = s.car := rfl
@[simp] theorem State.setIdx_pay : (s.setIdx v).pay = s.pay := rfl

end

section

variable (s : State) (v : Byte)

@[simp] theorem State.setByte_script : (s.setByte v).script = s.script := rfl
@[simp] theorem State.setByte_readBack : (s.setByte v).readBack = s.readBack := rfl
@[simp] theorem State.setByte_draws : (s.setByte v).draws = s.draws := rfl
@[simp] theorem State.setByte_err : (s.setByte v).err = s.err := rfl
@[simp] theorem State.setByte_errInfo : (s.setByte v).errInfo = s.errInfo := rfl
@[simp] theorem State.setByte_rows : (s.setByte v).rows = s.rows := rfl
@[simp] theorem State.setByte_cols : (s.setByte v).cols = s.cols := rfl
@[simp] theorem State.setByte_size : (s.setByte v).size = s.size := rfl
@[simp] theorem State.setByte_plen : (s.setByte v).plen = s.plen := rfl
@[simp] theorem State.setByte_idx : (s.setByte v).idx = s.idx := rfl
@[simp] theorem State.setByte_byte : (s.setByte v).byte = v := rfl
@[simp] theorem State.setByte_triple : (s.setByte v).triple = s.triple := rfl
@[simp] theorem State.setByte_pix : (s.setByte v).pix = s.pix := rfl
@[simp] theorem State.setByte_nlen : (s.setByte v).nlen = s.nlen := rfl
@[simp] theorem State.setByte_hdr : (s.setByte v).hdr = s.hdr := rfl
@[simp] theorem State.setByte_name : (s.setByte v).name = s.name := rfl
@[simp] theorem State.setByte_car : (s.setByte v).car = s.car := rfl
@[simp] theorem State.setByte_pay : (s.setByte v).pay = s.pay := rfl

end

section

variable (s : State) (v : Triple)

@[simp] theorem State.setTriple_script : (s.setTriple v).script = s.script := rfl
@[simp] theorem State.setTriple_readBack : (s.setTriple v).readBack = s.readBack := rfl
@[simp] theorem State.setTriple_draws : (s.setTriple v).draws = s.draws := rfl
@[simp] theorem State.setTriple_err : (s.setTriple v).err = s.err := rfl
@[simp] theorem State.setTriple_errInfo : (s.setTriple v).errInfo = s.errInfo := rfl
@[simp] theorem State.setTriple_rows : (s.setTriple v).rows = s.rows := rfl
@[simp] theorem State.setTriple_cols : (s.setTriple v).cols = s.cols := rfl
@[simp] theorem State.setTriple_size : (s.setTriple v).size = s.size := rfl
@[simp] theorem State.setTriple_plen : (s.setTriple v).plen = s.plen := rfl
@[simp] theorem State.setTriple_idx : (s.setTriple v).idx = s.idx := rfl
@[simp] theorem State.setTriple_byte : (s.setTriple v).byte = s.byte := rfl
@[simp] theorem State.setTriple_triple : (s.setTriple v).triple = v := rfl
@[simp] theorem State.setTriple_pix : (s.setTriple v).pix = s.pix := rfl
@[simp] theorem State.setTriple_nlen : (s.setTriple v).nlen = s.nlen := rfl
@[simp] theorem State.setTriple_hdr : (s.setTriple v).hdr = s.hdr := rfl
@[simp] theorem State.setTriple_name : (s.setTriple v).name = s.name := rfl
@[simp] theorem State.setTriple_car : (s.setTriple v).car = s.car := rfl
@[simp] theorem State.setTriple_pay : (s.setTriple v).pay = s.pay := rfl

end

section

variable (s : State) (v : Pixel)

@[simp] theorem State.setPix_script : (s.setPix v).script = s.script := rfl
@[simp] theorem State.setPix_readBack : (s.setPix v).readBack = s.readBack := rfl
@[simp] theorem State.setPix_draws : (s.setPix v).draws = s.draws := rfl
@[simp] theorem State.setPix_err : (s.setPix v).err = s.err := rfl
@[simp] theorem State.setPix_errInfo : (s.setPix v).errInfo = s.errInfo := rfl
@[simp] theorem State.setPix_rows : (s.setPix v).rows = s.rows := rfl
@[simp] theorem State.setPix_cols : (s.setPix v).cols = s.cols := rfl
@[simp] theorem State.setPix_size : (s.setPix v).size = s.size := rfl
@[simp] theorem State.setPix_plen : (s.setPix v).plen = s.plen := rfl
@[simp] theorem State.setPix_idx : (s.setPix v).idx = s.idx := rfl
@[simp] theorem State.setPix_byte : (s.setPix v).byte = s.byte := rfl
@[simp] theorem State.setPix_triple : (s.setPix v).triple = s.triple := rfl
@[simp] theorem State.setPix_pix : (s.setPix v).pix = v := rfl
@[simp] theorem State.setPix_nlen : (s.setPix v).nlen = s.nlen := rfl
@[simp] theorem State.setPix_hdr : (s.setPix v).hdr = s.hdr := rfl
@[simp] theorem State.setPix_name : (s.setPix v).name = s.name := rfl
@[simp] theorem State.setPix_car : (s.setPix v).car = s.car := rfl
@[simp] theorem State.setPix_pay : (s.setPix v).pay = s.pay := rfl

end

section

variable (s : State) (v : Byte)

@[simp] theorem State.setNlen_script : (s.setNlen v).script = s.script := rfl
@[simp] theorem State.setNlen_readBack : (s.setNlen v).readBack = s.readBack := rfl
@[simp] theorem State.setNlen_draws : (s.setNlen v).draws = s.draws := rfl
@[simp] theorem State.setNlen_err : (s.setNlen v).err = s.err := rfl
@[simp] theorem State.setNlen_errInfo : (s.setNlen v).errInfo = s.errInfo := rfl
@[simp] theorem State.setNlen_rows : (s.setNlen v).rows = s.rows := rfl
@[simp] theorem State.setNlen_cols : (s.setNlen v).cols = s.cols := rfl
@[simp] theorem State.setNlen_size : (s.setNlen v).size = s.size := rfl
@[simp] theorem State.setNlen_plen : (s.setNlen v).plen = s.plen := rfl
@[simp] theorem State.setNlen_idx : (s.setNlen v).idx = s.idx := rfl
@[simp] theorem State.setNlen_byte : (s.setNlen v).byte = s.byte := rfl
@[simp] theorem State.setNlen_triple : (s.setNlen v).triple = s.triple := rfl
@[simp] theorem State.setNlen_pix : (s.setNlen v).pix = s.pix := rfl
@[simp] theorem State.setNlen_nlen : (s.setNlen v).nlen = v := rfl
@[simp] theorem State.setNlen_hdr : (s.setNlen v).hdr = s.hdr := rfl
@[simp] theorem State.setNlen_name : (s.setNlen v).name = s.name := rfl
@[simp] theorem State.setNlen_car : (s.setNlen v).car = s.car := rfl
@[simp] theorem State.setNlen_pay : (s.setNlen v).pay = s.pay := rfl

end

section

variable (s : State) (v : Vector Byte 30)

@[simp] theorem State.setHdr_script : (s.setHdr v).script = s.script := rfl
@[simp] theorem State.setHdr_readBack : (s.setHdr v).readBack = s.readBack := rfl
@[simp] theorem State.setHdr_draws : (s.setHdr v).draws = s.draws := rfl
@[simp] theorem State.setHdr_err : (s.setHdr v).err = s.err := rfl
@[simp] theorem State.setHdr_errInfo : (s.setHdr v).errInfo = s.errInfo := rfl
@[simp] theorem State.setHdr_rows : (s.setHdr v).rows = s.rows := rfl
@[simp] theorem State.setHdr_cols : (s.setHdr v).cols = s.cols := rfl
@[simp] theorem State.setHdr_size : (s.setHdr v).size = s.size := rfl
@[simp] theorem State.setHdr_plen : (s.setHdr v).plen = s.plen := rfl
@[simp] theorem State.setHdr_idx : (s.setHdr v).idx = s.idx := rfl
@[simp] theorem State.setHdr_byte : (s.setHdr v).byte = s.byte := rfl
@[simp] theorem State.setHdr_triple : (s.setHdr v).triple = s.triple := rfl
@[simp] theorem State.setHdr_pix : (s.setHdr v).pix = s.pix := rfl
@[simp] theorem State.setHdr_nlen : (s.setHdr v).nlen = s.nlen := rfl
@[simp] theorem State.setHdr_hdr : (s.setHdr v).hdr = v := rfl
@[simp] theorem State.setHdr_name : (s.setHdr v).name = s.name := rfl
@[simp] theorem State.setHdr_car : (s.setHdr v).car = s.car := rfl
@[simp] theorem State.setHdr_pay : (s.setHdr v).pay = s.pay := rfl

end

section

variable (s : State) (v : Vector Byte 255)

@[simp] theorem State.setName_script : (s.setName v).script = s.script := rfl
@[simp] theorem State.setName_readBack : (s.setName v).readBack = s.readBack := rfl
@[simp] theorem State.setName_draws : (s.setName v).draws = s.draws := rfl
@[simp] theorem State.setName_err : (s.setName v).err = s.err := rfl
@[simp] theorem State.setName_errInfo : (s.setName v).errInfo = s.errInfo := rfl
@[simp] theorem State.setName_rows : (s.setName v).rows = s.rows := rfl
@[simp] theorem State.setName_cols : (s.setName v).cols = s.cols := rfl
@[simp] theorem State.setName_size : (s.setName v).size = s.size := rfl
@[simp] theorem State.setName_plen : (s.setName v).plen = s.plen := rfl
@[simp] theorem State.setName_idx : (s.setName v).idx = s.idx := rfl
@[simp] theorem State.setName_byte : (s.setName v).byte = s.byte := rfl
@[simp] theorem State.setName_triple : (s.setName v).triple = s.triple := rfl
@[simp] theorem State.setName_pix : (s.setName v).pix = s.pix := rfl
@[simp] theorem State.setName_nlen : (s.setName v).nlen = s.nlen := rfl
@[simp] theorem State.setName_hdr : (s.setName v).hdr = s.hdr := rfl
@[simp] theorem State.setName_name : (s.setName v).name = v := rfl
@[simp] theorem State.setName_car : (s.setName v).car = s.car := rfl
@[simp] theorem State.setName_pay : (s.setName v).pay = s.pay := rfl

end

section

variable (s : State) (v : Memory 24)

@[simp] theorem State.setCar_script : (s.setCar v).script = s.script := rfl
@[simp] theorem State.setCar_readBack : (s.setCar v).readBack = s.readBack := rfl
@[simp] theorem State.setCar_draws : (s.setCar v).draws = s.draws := rfl
@[simp] theorem State.setCar_err : (s.setCar v).err = s.err := rfl
@[simp] theorem State.setCar_errInfo : (s.setCar v).errInfo = s.errInfo := rfl
@[simp] theorem State.setCar_rows : (s.setCar v).rows = s.rows := rfl
@[simp] theorem State.setCar_cols : (s.setCar v).cols = s.cols := rfl
@[simp] theorem State.setCar_size : (s.setCar v).size = s.size := rfl
@[simp] theorem State.setCar_plen : (s.setCar v).plen = s.plen := rfl
@[simp] theorem State.setCar_idx : (s.setCar v).idx = s.idx := rfl
@[simp] theorem State.setCar_byte : (s.setCar v).byte = s.byte := rfl
@[simp] theorem State.setCar_triple : (s.setCar v).triple = s.triple := rfl
@[simp] theorem State.setCar_pix : (s.setCar v).pix = s.pix := rfl
@[simp] theorem State.setCar_nlen : (s.setCar v).nlen = s.nlen := rfl
@[simp] theorem State.setCar_hdr : (s.setCar v).hdr = s.hdr := rfl
@[simp] theorem State.setCar_name : (s.setCar v).name = s.name := rfl
@[simp] theorem State.setCar_car : (s.setCar v).car = v := rfl
@[simp] theorem State.setCar_pay : (s.setCar v).pay = s.pay := rfl

end

section

variable (s : State) (v : Memory 8)

@[simp] theorem State.setPay_script : (s.setPay v).script = s.script := rfl
@[simp] theorem State.setPay_readBack : (s.setPay v).readBack = s.readBack := rfl
@[simp] theorem State.setPay_draws : (s.setPay v).draws = s.draws := rfl
@[simp] theorem State.setPay_err : (s.setPay v).err = s.err := rfl
@[simp] theorem State.setPay_errInfo : (s.setPay v).errInfo = s.errInfo := rfl
@[simp] theorem State.setPay_rows : (s.setPay v).rows = s.rows := rfl
@[simp] theorem State.setPay_cols : (s.setPay v).cols = s.cols := rfl
@[simp] theorem State.setPay_size : (s.setPay v).size = s.size := rfl
@[simp] theorem State.setPay_plen : (s.setPay v).plen = s.plen := rfl
@[simp] theorem State.setPay_idx : (s.setPay v).idx = s.idx := rfl
@[simp] theorem State.setPay_byte : (s.setPay v).byte = s.byte := rfl
@[simp] theorem State.setPay_triple : (s.setPay v).triple = s.triple := rfl
@[simp] theorem State.setPay_pix : (s.setPay v).pix = s.pix := rfl
@[simp] theorem State.setPay_nlen : (s.setPay v).nlen = s.nlen := rfl
@[simp] theorem State.setPay_hdr : (s.setPay v).hdr = s.hdr := rfl
@[simp] theorem State.setPay_name : (s.setPay v).name = s.name := rfl
@[simp] theorem State.setPay_car : (s.setPay v).car = s.car := rfl
@[simp] theorem State.setPay_pay : (s.setPay v).pay = v := rfl

end

section

variable (s : State) (v0 : ErrCode) (v1 : Word)

@[simp] theorem State.setLatch_script : (s.setLatch v0 v1).script = s.script := rfl
@[simp] theorem State.setLatch_readBack : (s.setLatch v0 v1).readBack = s.readBack := rfl
@[simp] theorem State.setLatch_draws : (s.setLatch v0 v1).draws = s.draws := rfl
@[simp] theorem State.setLatch_err : (s.setLatch v0 v1).err = v0 := rfl
@[simp] theorem State.setLatch_errInfo : (s.setLatch v0 v1).errInfo = v1 := rfl
@[simp] theorem State.setLatch_rows : (s.setLatch v0 v1).rows = s.rows := rfl
@[simp] theorem State.setLatch_cols : (s.setLatch v0 v1).cols = s.cols := rfl
@[simp] theorem State.setLatch_size : (s.setLatch v0 v1).size = s.size := rfl
@[simp] theorem State.setLatch_plen : (s.setLatch v0 v1).plen = s.plen := rfl
@[simp] theorem State.setLatch_idx : (s.setLatch v0 v1).idx = s.idx := rfl
@[simp] theorem State.setLatch_byte : (s.setLatch v0 v1).byte = s.byte := rfl
@[simp] theorem State.setLatch_triple : (s.setLatch v0 v1).triple = s.triple := rfl
@[simp] theorem State.setLatch_pix : (s.setLatch v0 v1).pix = s.pix := rfl
@[simp] theorem State.setLatch_nlen : (s.setLatch v0 v1).nlen = s.nlen := rfl
@[simp] theorem State.setLatch_hdr : (s.setLatch v0 v1).hdr = s.hdr := rfl
@[simp] theorem State.setLatch_name : (s.setLatch v0 v1).name = s.name := rfl
@[simp] theorem State.setLatch_car : (s.setLatch v0 v1).car = s.car := rfl
@[simp] theorem State.setLatch_pay : (s.setLatch v0 v1).pay = s.pay := rfl

end

/-- Two states with the same eighteen fields are the same. -/
@[ext] theorem State.ext {s t : State}
    (h_script : s.script = t.script) (h_readBack : s.readBack = t.readBack) (h_draws : s.draws = t.draws)
    (h_err : s.err = t.err) (h_errInfo : s.errInfo = t.errInfo) (h_rows : s.rows = t.rows)
    (h_cols : s.cols = t.cols) (h_size : s.size = t.size) (h_plen : s.plen = t.plen) (h_idx : s.idx = t.idx)
    (h_byte : s.byte = t.byte) (h_triple : s.triple = t.triple) (h_pix : s.pix = t.pix)
    (h_nlen : s.nlen = t.nlen) (h_hdr : s.hdr = t.hdr) (h_name : s.name = t.name) (h_car : s.car = t.car)
    (h_pay : s.pay = t.pay) : s = t := by
  cases s
  cases t
  simp_all only

end Sys2Proof.Machine
end

