-- ==== Sys2Proof/Laws/Ops.lean ====
section
/-! SUPPORT. What the shared operations over the latch, the buffers and the registers can do, said once. -/

namespace Sys2Proof.Machine

/-! ### The latch -/

theorem whenClear_of_clear {body : State → State} {s : State} (h : s.err = 0#3) : whenClear body s = body s := by
  simp [whenClear, h]

theorem whenClear_of_latched {body : State → State} {s : State} (h : s.err ≠ 0#3) : whenClear body s = s := by
  simp [whenClear, h]

/-- What a gated command can do: nothing, or its body with no error latched. -/
theorem whenClear_cases (body : State → State) (s : State) :
    (s.err ≠ 0#3 ∧ whenClear body s = s) ∨ (s.err = 0#3 ∧ whenClear body s = body s) := by
  by_cases h : s.err = 0#3
  · exact .inr ⟨h, whenClear_of_clear h⟩
  · exact .inl ⟨h, whenClear_of_latched h⟩

theorem raise_of_clear {e : ErrorKind} {info : Word} {s : State} (h : s.err = 0#3) :
    raise e info s = s.setLatch (errorCode e) info := by
  simp [raise, h]

theorem raise_of_latched {e : ErrorKind} {info : Word} {s : State} (h : s.err ≠ 0#3) : raise e info s = s := by
  simp [raise, h]

/-- What raising can do. -/
theorem raise_cases (e : ErrorKind) (info : Word) (s : State) :
    (s.err ≠ 0#3 ∧ raise e info s = s) ∨ (s.err = 0#3 ∧ raise e info s = s.setLatch (errorCode e) info) := by
  by_cases h : s.err = 0#3
  · exact .inr ⟨h, raise_of_clear h⟩
  · exact .inl ⟨h, raise_of_latched h⟩

theorem errorCode_ne_zero (e : ErrorKind) : errorCode e ≠ 0#3 := by cases e <;> decide

theorem errorCode_le (e : ErrorKind) : (errorCode e).toNat ≤ 5 := by cases e <;> decide

/-! ### The last reading -/

theorem withLastRead_of_none {s : State} {body : Word → State} (h : s.readBack = []) : withLastRead s body = s := by
  simp [withLastRead, h]

theorem withLastRead_of_some {s : State} {body : Word → State} {v : Word} {r : List Word} (h : s.readBack = v :: r) :
    withLastRead s body = body v := by
  simp [withLastRead, h]

/-! ### Buffers -/

theorem bufRead_of_lt {n : Nat} (b : Vector Byte n) {j : Nat} (h : j < n) : bufRead b j = b[j] := by
  simp [bufRead, h]

theorem bufRead_of_le {n : Nat} (b : Vector Byte n) {j : Nat} (h : n ≤ j) : bufRead b j = 0#8 := by
  simp [bufRead, Nat.not_lt.mpr h]

theorem buffer_ext {n : Nat} {b b' : Vector Byte n} (h : ∀ j < n, bufRead b j = bufRead b' j) : b = b' := by
  ext1 j hj
  simpa [bufRead, hj] using h j hj

theorem bufRead_bufWrite {n : Nat} (b : Vector Byte n) (j k : Nat) (v : Byte) :
    bufRead (bufWrite b j v) k = if k = j ∧ j < n then v else bufRead b k := by
  unfold bufRead bufWrite
  by_cases hk : k < n
  · by_cases hkj : k = j
    · subst hkj; simp [hk]
    · have hjk : j ≠ k := fun h => hkj h.symm
      simp [hk, hkj, hjk]
  · have : ¬ (k = j ∧ j < n) := by omega
    simp [hk, this]

theorem bufRead_bufStore {n : Nat} (b : Vector Byte n) (l : List Byte) (k : Nat) :
    bufRead (bufStore b l) k = if k < n ∧ k < l.length then l.getD k 0#8 else bufRead b k := by
  by_cases hk : k < n
  · by_cases hl : k < l.length
    · simp [bufRead, bufStore, hk, hl]
    · simp [bufRead, bufStore, hk, hl]
  · simp [bufRead, hk]

theorem bufRead_hdrOf (f : Nat → Byte) {k : Nat} (h : k < 30) : bufRead (hdrOf f) k = f k := by
  simp [bufRead, hdrOf, h]

/-- HDR is decided by its 30 bytes. -/
theorem hdrOf_bufRead (b : Vector Byte 30) : hdrOf (bufRead b) = b :=
  buffer_ext fun _ hj => bufRead_hdrOf _ hj

end Sys2Proof.Machine
end

