-- ==== Sys2Proof/Laws/Memory.lean ====
section
/-! SUPPORT. The laws of a memory: a read after a write gives the value written, a write leaves every other
element alone, a write keeps the canonical form, and two memories in canonical form that read alike are equal. -/

namespace Sys2Proof.Machine

variable {w : Nat}

@[simp] theorem Memory.read_nil (k : Nat) : Memory.read ([] : Memory w) k = Config.unlisted w := rfl

@[simp] theorem Memory.read_cons (c : Nat × BitVec w) (m : Memory w) (k : Nat) :
    Memory.read (c :: m) k = if c.1 = k then c.2 else Memory.read m k := rfl

theorem Memory.read_erase (m : Memory w) (k j : Nat) :
    (Memory.erase m k).read j = if j = k then Config.unlisted w else Memory.read m j := by
  induction m with
  | nil => simp [Memory.erase]
  | cons c m ih =>
    by_cases hc : c.1 = k
    · have : Memory.erase (c :: m) k = Memory.erase m k := by simp [Memory.erase, hc]
      rw [this, ih, Memory.read_cons, hc]
      split
      · rfl
      · rw [if_neg (by omega)]
    · have : Memory.erase (c :: m) k = c :: Memory.erase m k := by simp [Memory.erase, hc]
      rw [this, Memory.read_cons, ih, Memory.read_cons]
      split
      · rw [if_neg (by omega)]
      · rfl

theorem Memory.mem_erase {m : Memory w} {k : Nat} {c : Nat × BitVec w} :
    c ∈ Memory.erase m k ↔ c ∈ m ∧ c.1 ≠ k := by
  simp [Memory.erase]

/-- Placing an element of index `k` where none is listed: it is found, and so is every other element. -/
theorem Memory.read_place (m : Memory w) (k : Nat) (v : BitVec w) (h : ∀ c ∈ m, c.1 ≠ k) (j : Nat) :
    (Memory.place m k v).read j = if j = k then v else Memory.read m j := by
  induction m with
  | nil => simp [Memory.place, eq_comm]
  | cons c m ih =>
    have hc := h c (by simp)
    have ih := ih fun d hd => h d (by simp [hd])
    unfold Memory.place
    split
    · simp only [Memory.read_cons]
      by_cases hj : j = k
      · simp [hj]
      · rw [if_neg (fun h => hj h.symm), if_neg hj]
    · rw [Memory.read_cons, ih, Memory.read_cons]
      split
      · rw [if_neg (by omega)]
      · rfl

theorem Memory.mem_place {m : Memory w} {k : Nat} {v : BitVec w} {c : Nat × BitVec w} :
    c ∈ Memory.place m k v ↔ c = (k, v) ∨ c ∈ m := by
  induction m with
  | nil => simp [Memory.place]
  | cons d m ih =>
    unfold Memory.place
    split
    · simp
    · simp [ih]; tauto

/-- What a write does to every read. -/
theorem Memory.read_write (m : Memory w) (k : Nat) (v : BitVec w) (j : Nat) :
    (Memory.write m k v).read j = if j = k then v else Memory.read m j := by
  unfold Memory.write
  split
  · next h => rw [Memory.read_erase, h]
  · rw [Memory.read_place _ _ _ (fun c hc => (Memory.mem_erase.mp hc).2), Memory.read_erase]
    split <;> rfl

@[simp] theorem Memory.read_write_same (m : Memory w) (k : Nat) (v : BitVec w) :
    (Memory.write m k v).read k = v := by
  simp [Memory.read_write]

theorem Memory.read_write_other (m : Memory w) {k j : Nat} (v : BitVec w) (h : j ≠ k) :
    (Memory.write m k v).read j = Memory.read m j := by
  simp [Memory.read_write, h]

@[simp] theorem Memory.wf_nil : Memory.wf ([] : Memory w) := by simp [Memory.wf]

theorem Memory.erase_wf {m : Memory w} (h : Memory.wf m) (k : Nat) : Memory.wf (Memory.erase m k) :=
  ⟨h.1.filter _, fun c hc => h.2 c (Memory.mem_erase.mp hc).1⟩

theorem Memory.place_wf {m : Memory w} (h : Memory.wf m) {k : Nat} (hk : k < Config.spaceSize)
    (hm : ∀ c ∈ m, c.1 ≠ k) {v : BitVec w} (hv : v ≠ Config.unlisted w) : Memory.wf (Memory.place m k v) := by
  refine ⟨?_, fun c hc => ?_⟩
  · induction m with
    | nil => simp [Memory.place]
    | cons d m ih =>
      have hd := hm d (by simp)
      have hp := List.pairwise_cons.mp h.1
      unfold Memory.place
      split
      · next hlt =>
        refine List.pairwise_cons.mpr ⟨fun c hc => ?_, h.1⟩
        rcases List.mem_cons.mp hc with rfl | hc
        · exact hlt
        · exact Nat.lt_trans hlt (hp.1 c hc)
      · refine List.pairwise_cons.mpr ⟨fun c hc => ?_, ?_⟩
        · rcases Memory.mem_place.mp hc with rfl | hc
          · simp only; omega
          · exact hp.1 c hc
        · exact ih ⟨hp.2, fun c hc => h.2 c (by simp [hc])⟩ fun c hc => hm c (by simp [hc])
  · rcases Memory.mem_place.mp hc with rfl | hc
    · exact ⟨hk, hv⟩
    · exact h.2 c hc

/-- A write inside the space keeps the canonical form. -/
theorem Memory.write_wf {m : Memory w} (h : Memory.wf m) {k : Nat} (hk : k < Config.spaceSize) (v : BitVec w) :
    Memory.wf (Memory.write m k v) := by
  unfold Memory.write
  split
  · exact Memory.erase_wf h k
  · next hv => exact Memory.place_wf (Memory.erase_wf h k) hk (fun c hc => (Memory.mem_erase.mp hc).2) hv

theorem Memory.read_of_forall_lt {m : Memory w} {k : Nat} (h : ∀ c ∈ m, k < c.1) :
    Memory.read m k = Config.unlisted w := by
  induction m with
  | nil => rfl
  | cons c m ih =>
    rw [Memory.read_cons, if_neg (by have := h c (by simp); omega)]
    exact ih fun d hd => h d (by simp [hd])

/-- Equal memories are equal data: in canonical form, what every index reads as decides the list. -/
theorem Memory.ext_of_wf {m m' : Memory w} (h : Memory.wf m) (h' : Memory.wf m')
    (hr : ∀ k, Memory.read m k = Memory.read m' k) : m = m' := by
  induction m generalizing m' with
  | nil =>
    cases m' with
    | nil => rfl
    | cons d m' =>
      have := hr d.1
      simp only [Memory.read_nil, Memory.read_cons, if_true] at this
      exact absurd this.symm (h'.2 d (by simp)).2
  | cons c m ih =>
    have hp := List.pairwise_cons.mp h.1
    cases m' with
    | nil =>
      have := hr c.1
      simp only [Memory.read_nil, Memory.read_cons, if_true] at this
      exact absurd this (h.2 c (by simp)).2
    | cons d m' =>
      have hp' := List.pairwise_cons.mp h'.1
      have hcd : c.1 = d.1 := by
        rcases Nat.lt_trichotomy c.1 d.1 with hlt | heq | hgt
        · have := hr c.1
          rw [Memory.read_cons, if_pos rfl, Memory.read_of_forall_lt] at this
          · exact absurd this (h.2 c (by simp)).2
          · intro e he
            rcases List.mem_cons.mp he with rfl | he
            · exact hlt
            · exact Nat.lt_trans hlt (hp'.1 e he)
        · exact heq
        · have := hr d.1
          rw [Memory.read_cons (c := d), if_pos rfl, Memory.read_of_forall_lt] at this
          · exact absurd this.symm (h'.2 d (by simp)).2
          · intro e he
            rcases List.mem_cons.mp he with rfl | he
            · exact hgt
            · exact Nat.lt_trans hgt (hp.1 e he)
      have hv : c.2 = d.2 := by simpa [hcd] using hr c.1
      have hc : c = d := Prod.ext hcd hv
      subst hc
      congr 1
      refine ih ⟨hp.2, fun e he => h.2 e (by simp [he])⟩ ⟨hp'.2, fun e he => h'.2 e (by simp [he])⟩ fun k => ?_
      have := hr k
      simp only [Memory.read_cons] at this
      split at this
      · next hk =>
        rw [Memory.read_of_forall_lt fun e he => hk ▸ hp.1 e he,
          Memory.read_of_forall_lt fun e he => hk ▸ hp'.1 e he]
      · exact this

/-- No index outside the space is listed. -/
theorem Memory.read_of_spaceSize_le {m : Memory w} (h : Memory.wf m) {k : Nat} (hk : Config.spaceSize ≤ k) :
    Memory.read m k = Config.unlisted w := by
  induction m with
  | nil => rfl
  | cons c m ih =>
    have hc := (h.2 c (by simp)).1
    rw [Memory.read_cons, if_neg (by omega)]
    exact ih ⟨(List.pairwise_cons.mp h.1).2, fun d hd => h.2 d (by simp [hd])⟩

/-! ### CAR -/

theorem carIndex_lt (row col : Dim) : carIndex row col < Config.spaceSize := by
  have := row.isLt
  have := col.isLt
  simp only [carIndex, Config.spaceSize]
  omega

theorem carIndex_inj {row col row' col' : Dim} :
    carIndex row col = carIndex row' col' ↔ row = row' ∧ col = col' := by
  have := col.isLt
  have := col'.isLt
  rw [← BitVec.toNat_inj, ← BitVec.toNat_inj]
  simp only [carIndex]
  omega

theorem carRead_carWrite (m : Memory 24) (row col row' col' : Dim) (p : Pixel) :
    carRead (carWrite m row col p) row' col' = if row' = row ∧ col' = col then p else carRead m row' col' := by
  simp only [carRead, carWrite, Memory.read_write, carIndex_inj]

theorem carWrite_wf {m : Memory 24} (h : Memory.wf m) (row col : Dim) (p : Pixel) :
    Memory.wf (carWrite m row col p) :=
  Memory.write_wf h (carIndex_lt row col) p

/-- Carriers in canonical form with equal pixels are equal data. -/
theorem car_ext {m m' : Memory 24} (h : Memory.wf m) (h' : Memory.wf m')
    (hr : ∀ row col : Dim, carRead m row col = carRead m' row col) : m = m' := by
  refine Memory.ext_of_wf h h' fun k => ?_
  by_cases hk : k < Config.spaceSize
  · have hk' : k < 4294967296 := hk
    have hidx : k = carIndex (BitVec.ofNat 16 (k / 65536)) (BitVec.ofNat 16 (k % 65536)) := by
      simp [carIndex]; omega
    rw [hidx]
    exact hr _ _
  · rw [Memory.read_of_spaceSize_le h (Nat.not_lt.mp hk), Memory.read_of_spaceSize_le h' (Nat.not_lt.mp hk)]

/-! ### PAY -/

theorem payRead_payWrite (m : Memory 8) (k j : Word) (b : Byte) :
    payRead (payWrite m k b) j = if j = k then b else payRead m j := by
  simp only [payRead, payWrite, Memory.read_write, BitVec.toNat_inj]

theorem payWrite_wf {m : Memory 8} (h : Memory.wf m) (k : Word) (b : Byte) : Memory.wf (payWrite m k b) :=
  Memory.write_wf h (by have := k.isLt; simpa using this) b

/-- Payload streams in canonical form with equal bytes are equal data. -/
theorem pay_ext {m m' : Memory 8} (h : Memory.wf m) (h' : Memory.wf m')
    (hr : ∀ k : Word, payRead m k = payRead m' k) : m = m' := by
  refine Memory.ext_of_wf h h' fun k => ?_
  by_cases hk : k < Config.spaceSize
  · have := hr (BitVec.ofNat 32 k)
    rwa [payRead, payRead, BitVec.toNat_ofNat, Nat.mod_eq_of_lt hk] at this
  · rw [Memory.read_of_spaceSize_le h (Nat.not_lt.mp hk), Memory.read_of_spaceSize_le h' (Nat.not_lt.mp hk)]

end Sys2Proof.Machine
end

