-- ==== Sys2Proof/Laws/Raster.lean ====
section
/-! SUPPORT. The raster order and the loops of EMBED and EXTRACT: what the loops leave in every element. -/

namespace Sys2Proof.Machine

theorem npix_lt (s : State) : s.npix < 4294967296 := by
  have h1 : s.rows.toNat ≤ 65535 := by have := s.rows.isLt; omega
  have h2 : s.cols.toNat ≤ 65535 := by have := s.cols.isLt; omega
  have := Nat.mul_le_mul h1 h2
  unfold State.npix
  omega

/-- The two coordinates of an index in range name a pixel of the grid, and the 16-bit registers do not cut them
(R130). -/
theorem raster_toNat {rows cols : Dim} {i : Nat} (h : i < rows.toNat * cols.toNat) :
    (rasterRow cols i).toNat = i / cols.toNat ∧ (rasterCol cols i).toNat = i % cols.toNat ∧
      i / cols.toNat < rows.toNat ∧ i % cols.toNat < cols.toNat := by
  have hr := rows.isLt
  have hc := cols.isLt
  have hpos : 0 < cols.toNat := by
    rcases Nat.eq_zero_or_pos cols.toNat with h0 | h0
    · rw [h0] at h; omega
    · exact h0
  have h1 : i / cols.toNat < rows.toNat := Nat.div_lt_of_lt_mul (by rw [Nat.mul_comm]; exact h)
  have h2 : i % cols.toNat < cols.toNat := Nat.mod_lt _ hpos
  simp only [rasterRow, rasterCol, BitVec.toNat_ofNat]
  exact ⟨Nat.mod_eq_of_lt (by omega), Nat.mod_eq_of_lt (by omega), h1, h2⟩

/-- The mapping is one-to-one on the indices in range (R130). -/
theorem raster_inj {rows cols : Dim} {i j : Nat} (hi : i < rows.toNat * cols.toNat)
    (hj : j < rows.toNat * cols.toNat) :
    (rasterRow cols i = rasterRow cols j ∧ rasterCol cols i = rasterCol cols j) ↔ i = j := by
  refine ⟨fun ⟨hr, hc⟩ => ?_, fun h => by simp [h]⟩
  have ⟨hi1, hi2, _, _⟩ := raster_toNat hi
  have ⟨hj1, hj2, _, _⟩ := raster_toNat hj
  have hr := congrArg BitVec.toNat hr
  have hc := congrArg BitVec.toNat hc
  rw [hi1, hj1] at hr
  rw [hi2, hj2] at hc
  rw [← Nat.div_add_mod i cols.toNat, ← Nat.div_add_mod j cols.toNat, hr, hc]

theorem pixelAt_setPixelAt {rows cols : Dim} (m : Memory 24) {i j : Nat} (p : Pixel)
    (hi : i < rows.toNat * cols.toNat) (hj : j < rows.toNat * cols.toNat) :
    pixelAt cols (setPixelAt cols m i p) j = if j = i then p else pixelAt cols m j := by
  unfold pixelAt setPixelAt
  rw [carRead_carWrite]
  simp only [raster_inj hj hi]

theorem setPixelAt_wf {m : Memory 24} (h : Memory.wf m) (cols : Dim) (i : Nat) (p : Pixel) :
    Memory.wf (setPixelAt cols m i p) :=
  carWrite_wf h _ _ p

/-! ### EMBED's loop -/

/-- After `n` turns the first `n` pixels are packed and the others are as they were (R150). -/
theorem pixelAt_embedTurns {rows cols : Dim} (b : Nat → Byte) (car : Memory 24) {n : Nat}
    (hn : n ≤ rows.toNat * cols.toNat) {j : Nat} (hj : j < rows.toNat * cols.toNat) :
    pixelAt cols (embedTurns cols b car n) j =
      if j < n then packPixel (pixelAt cols car j) (b j) else pixelAt cols car j := by
  induction n with
  | zero => simp [embedTurns]
  | succ n ih =>
    have ih' := ih (by omega)
    simp only [embedTurns]
    rw [pixelAt_setPixelAt _ _ (by omega) hj]
    by_cases h : j = n
    · subst h
      rw [if_pos rfl, ih', if_neg (by omega), if_pos (by omega)]
    · rw [if_neg h, ih']
      by_cases h2 : j < n
      · rw [if_pos h2, if_pos (by omega)]
      · rw [if_neg h2, if_neg (by omega)]

/-- A pixel that no turn touches is unchanged. -/
theorem carRead_embedTurns_other (cols : Dim) (b : Nat → Byte) (car : Memory 24) (n : Nat) {row col : Dim}
    (h : ∀ i < n, ¬ (row = rasterRow cols i ∧ col = rasterCol cols i)) :
    carRead (embedTurns cols b car n) row col = carRead car row col := by
  induction n with
  | zero => rfl
  | succ n ih =>
    simp only [embedTurns, setPixelAt]
    rw [carRead_carWrite, if_neg (h n (by omega)), ih fun i hi => h i (by omega)]

theorem embedTurns_wf {cols : Dim} {b : Nat → Byte} {car : Memory 24} (h : Memory.wf car) (n : Nat) :
    Memory.wf (embedTurns cols b car n) := by
  induction n with
  | zero => exact h
  | succ n ih => exact setPixelAt_wf ih _ _ _

/-! ### EXTRACT's payload loop -/

/-- After `n` turns the first `n` payload bytes are the hidden ones and the others are as they were (R153). -/
theorem payRead_extractTurns (cols : Dim) (car : Memory 24) (pay : Memory 8) {n : Nat} (hn : n < 4294967296)
    (k : Word) :
    payRead (extractTurns cols car pay n) k =
      if k.toNat < n then hiddenByte cols car (30 + k.toNat) else payRead pay k := by
  induction n with
  | zero => simp [extractTurns]
  | succ n ih =>
    have ih' := ih (by omega)
    simp only [extractTurns]
    rw [payRead_payWrite, ih']
    have hkn : k = BitVec.ofNat 32 n ↔ k.toNat = n := by
      rw [← BitVec.toNat_inj, BitVec.toNat_ofNat, Nat.mod_eq_of_lt (by omega)]
    by_cases h : k.toNat = n
    · rw [if_pos (hkn.mpr h), if_pos (by omega), h]
    · rw [if_neg fun hk => h (hkn.mp hk)]
      by_cases h2 : k.toNat < n
      · rw [if_pos h2, if_pos (by omega)]
      · rw [if_neg h2, if_neg (by omega)]

theorem extractTurns_wf {cols : Dim} {car : Memory 24} {pay : Memory 8} (h : Memory.wf pay) (n : Nat) :
    Memory.wf (extractTurns cols car pay n) := by
  induction n with
  | zero => exact h
  | succ n ih => exact payWrite_wf ih _ _

end Sys2Proof.Machine
end

