-- ==== Sys2Proof/Machine/Script.lean ====
section
/-! DEFINITION. The host script notation's short forms: a mnemonic line and WRS (30_encoding.md R78), and the
pseudo-commands PUTBYTE, GETBYTE and HIDE (R79). Each is the list of host actions it expands to. -/

namespace Sys2Proof.Machine

/-- `<MNEMONIC>`: `WR CMD, <word of R72>`. -/
def command (i : Instr) : HostAction := .wr 0 (encode i)

/-- `WRS NAME, "<text>"`: the bytes to NAME[0], NAME[1], ..., then the length to NLEN (R78). -/
def writeNameString (text : List Byte) : List HostAction :=
  (text.zipIdx.map fun c => .wrb .name c.2 c.1) ++ [.wr 11 (BitVec.ofNat 32 text.length)]

/-- PUTBYTE: `LDPIX ; PACK ; STPIX ; INEXT` (R79). -/
def putByte : List HostAction := [command .ldpix, command .pack, command .stpix, command .inext]

/-- GETBYTE: `LDPIX ; UNPACK ; INEXT` (R79). -/
def getByte : List HostAction := [command .ldpix, command .unpack, command .inext]

/-- HIDE: `COMPOSE ; EMBED` (R79). -/
def hide : List HostAction := [command .compose, command .embed]

/-- The host script of R155: EMBED one byte at a time, for the header and payload the state holds. -/
def embedByHand (s : State) : List HostAction :=
  command .irst ::
    ((List.range 30).flatMap (fun j => .wr 8 ((bufRead s.hdr j).setWidth 32) :: putByte) ++
      (List.range s.plen.toNat).flatMap fun k =>
        .wr 8 ((payRead s.pay (BitVec.ofNat 32 k)).setWidth 32) :: putByte)

/-- The first part of the host script of R156, up to `RD SIZE -> size`: recover the header one byte at a time, each byte
written to HDR being the one just read, then parse it. -/
def extractHeadByHand : List HostAction :=
  command .irst ::
    ((List.range 30).flatMap (fun j => getByte ++ [.rd 8, .wrbRead .hdr j]) ++ [command .parse, .rd 5])

/-- The rest of the host script of R156, for the `size` the host has read: recover the payload one byte at a time, each
byte written to PAY being the one just read, then write the size to PLEN. -/
def extractTailByHand (size : Word) : List HostAction :=
  (List.range size.toNat).flatMap (fun k => getByte ++ [.rd 8, .wrpRead (BitVec.ofNat 32 k)]) ++ [.wr 6 size]

end Sys2Proof.Machine
end

