-- ==== Sys2Proof/Safety.lean ====
section
/-! DEFINITION. What counts as a good run, and the invariant of the machine. -/

namespace Sys2Proof.Machine

/-- The host script has been carried out to its last line (R81). -/
abbrev State.ended (s : State) : Prop := s.script = []

/-- No error is latched: at the end of a run, the run was good (R81). -/
abbrev State.good (s : State) : Prop := s.err = 0#3

/-- The invariant: STATUS.ERR is one of the codes 0 to 5 (R22), ERRINFO is 0 while ERR is 0 (R23), and CAR and PAY
keep their canonical form. -/
structure LegalState (s : State) : Prop where
  errLegal : s.err.toNat ≤ 5
  errInfoClear : s.err = 0#3 → s.errInfo = 0#32
  carWf : Memory.wf s.car
  payWf : Memory.wf s.pay

end Sys2Proof.Machine
end

