-- ==== Sys2Proof/Certificates/Slice0/Obligations.lean ====
section
/-! DEFINITION. The statements about the model, for the provers. Each docstring names the rules of spec/ it rests
on; `OBLIGATIONS.json` lists them. A result stated as `exec i s = .next t` gives the whole next state, so it is
the completion and the frame of the instruction at once: a field no `set` names is unchanged. -/

open Sys2Proof Sys2Proof.Machine

/-! ### Encoding -/

/-- The fourteen words of the opcode map decode to their commands, and the two reserved opcodes and a word with a
bit of ZERO set decode to none (R72; R73, R74 for the last three). -/
def Obligations.SpecWordsDecode : Prop :=
  decode 0x00000000#32 = some .nop ∧ decode 0x00000001#32 = some .split ∧ decode 0x00000002#32 = some .merge ∧
  decode 0x00000003#32 = some .pack ∧ decode 0x00000004#32 = some .unpack ∧ decode 0x00000005#32 = some .ldpix ∧
  decode 0x00000006#32 = some .stpix ∧ decode 0x00000007#32 = some .inext ∧ decode 0x00000008#32 = some .compose ∧
  decode 0x00000009#32 = some .parse ∧ decode 0x0000000A#32 = some .embed ∧ decode 0x0000000B#32 = some .extract ∧
  decode 0x0000000C#32 = some .irst ∧ decode 0x0000000F#32 = some .clrerr ∧
  decode 0x0000000D#32 = none ∧ decode 0x0000000E#32 = none ∧ decode 0x80000001#32 = none

/-- Decoder and encoder agree in both directions: every command's word decodes to it, and a word that decodes is
the word of its command and no other, so no bit of the 32 is dropped (R70, R72). -/
def Obligations.DecodeAndEncodeAgree : Prop :=
  (∀ i : Instr, i.wellFormed = true → decode (encode i) = some i ∧ wordWellFormed (encode i) = true) ∧
  (∀ (w : Word) (i : Instr), decode w = some i → encode i = w)

/-- Exactly 14 words are commands: a list of 14 different words holds every word that decodes and no other (R74), and
they are those the fields allow: ZERO = 0 and OP neither 0xD nor 0xE. A word with a bit of ZERO set, written while
STATUS.ERR = 0, raises IllegalCommand whatever OP is and changes nothing else (R73, R74). -/
def Obligations.FourteenWordsAreCommands : Prop :=
  (∀ w : Word, (decode w).isSome = true ↔ w.toNat < 16 ∧ w.toNat ≠ 0xD ∧ w.toNat ≠ 0xE) ∧
  (∃ ws : List Word, ws.Nodup ∧ ws.length = 14 ∧ ∀ w : Word, (decode w).isSome = true ↔ w ∈ ws) ∧
  (∀ (s : State) (w : Word) (rest : List HostAction), s.script = .wr 0 w :: rest → s.err = 0#3 →
    w.extractLsb' 4 28 ≠ 0#28 → step s = .next ((s.setScript rest).setLatch 5#3 w))

/-! ### A step -/

/-- A step whose next line writes a command's word to CMD runs that command on the state without the line, and
nothing else (R21, R78). -/
def Obligations.StepRunsDecodedCommand : Prop :=
  (∀ (s : State) (w : Word) (rest : List HostAction) (i : Instr),
    s.script = .wr 0 w :: rest → decode w = some i → step s = exec i (s.setScript rest)) ∧
  (∀ (s : State) (i : Instr), step (s.withFetchWord 32 (encode i).toNat) = exec i s)

/-- A write to CMD is decoded in the order of R77 and the first case that applies is the only one that happens:
a latched error lets only CLRERR through; then the ZERO bits; then the reserved opcodes; then the command. -/
def Obligations.CommandWriteFollowsDecodeOrder : Prop :=
  ∀ (s : State) (w : Word) (rest : List HostAction), s.script = .wr 0 w :: rest →
    (s.err ≠ 0#3 → w = 0x0000000F#32 → step s = .next ((s.setScript rest).setLatch 0#3 0#32)) ∧
    (s.err ≠ 0#3 → w ≠ 0x0000000F#32 → step s = .next (s.setScript rest)) ∧
    (s.err = 0#3 → w.extractLsb' 4 28 ≠ 0#28 → step s = .next ((s.setScript rest).setLatch 5#3 w)) ∧
    (s.err = 0#3 → w.extractLsb' 4 28 = 0#28 → (w.extractLsb' 0 4 = 0xD#4 ∨ w.extractLsb' 0 4 = 0xE#4) →
      step s = .next ((s.setScript rest).setLatch 5#3 w)) ∧
    (s.err = 0#3 → w.extractLsb' 4 28 = 0#28 → w.extractLsb' 0 4 ≠ 0xD#4 → w.extractLsb' 0 4 ≠ 0xE#4 →
      ∃ i : Instr, encode i = w ∧ step s = exec i (s.setScript rest))

/-- No command hangs and nothing stops the machine: every command and every step answers a next state, and with no
line left the state stays (R195; assumption 3 for the last). -/
def Obligations.EveryCommandAndStepCompletes : Prop :=
  (∀ (i : Instr) (s : State), ∃ t, exec i s = .next t) ∧
  (∀ s : State, ∃ t, step s = .next t) ∧
  (∀ s : State, s.script = [] → step s = .next s)

/-! ### The latch -/

/-- IllegalCommand: a word with a bit of ZERO set or a reserved opcode, written while no error is latched, sets ERR to
5 and ERRINFO to the word and changes nothing else (R73, R186). -/
def Obligations.IllegalWordRaises : Prop :=
  ∀ (s : State) (w : Word), s.err = 0#3 → (16 ≤ w.toNat ∨ w.toNat = 0xD ∨ w.toNat = 0xE) →
    step (s.setScript (.wr 0 w :: s.script)) = .next (s.setLatch 5#3 w)

/-- While an error is latched every command but CLRERR does nothing at all, illegal words among them, and the host's
writes of registers and buffers and its reads work as always (R188). -/
def Obligations.LatchedErrorGatesCommands : Prop :=
  ∀ (s : State) (rest : List HostAction), s.err ≠ 0#3 →
    (∀ i : Instr, i ≠ .clrerr → exec i s = .next s) ∧
    (∀ w : Word, w ≠ 0x0000000F#32 → step (s.setScript (.wr 0 w :: rest)) = .next (s.setScript rest)) ∧
    (∀ (n : Nat) (v : Word), n ≠ 0 →
      step (s.setScript (.wr n v :: rest)) = .next (writeReg (s.setScript rest) n v)) ∧
    (∀ (b : Buffer) (j : Nat) (v : Byte),
      step (s.setScript (.wrb b j v :: rest)) = .next (writeBuffer (s.setScript rest) b j v)) ∧
    (∀ n : Nat, step (s.setScript (.rd n :: rest)) = .next ((s.setScript rest).seen (readReg s n))) ∧
    (∀ (b : Buffer) (j : Nat),
      step (s.setScript (.rdb b j :: rest)) = .next ((s.setScript rest).seen ((readBuffer s b j).setWidth 32)))

/-- A latched error is kept by every step until the host writes CLRERR to CMD or resets the block (R188, R191,
R210). -/
def Obligations.FirstErrorIsKept : Prop :=
  ∀ s t : State, s.err ≠ 0#3 → step s = .next t →
    (t.err = s.err ∧ t.errInfo = s.errInfo) ∨
    (∃ rest, s.script = .wr 0 0x0000000F#32 :: rest ∧ t.err = 0#3 ∧ t.errInfo = 0#32) ∨
    (∃ rest, s.script = .reset :: rest ∧ t.err = 0#3 ∧ t.errInfo = 0#32)

/-- ERR changes only when a command raises, from 0 to a code the table of R180 gives that command, and when CLRERR
runs (R34, R180). -/
def Obligations.OnlyRaisingOrClrerrChangesErr : Prop :=
  ∀ (i : Instr) (s t : State), exec i s = .next t →
    (t.err = s.err ∧ t.errInfo = s.errInfo) ∨
    (i = .clrerr ∧ t.err = 0#3 ∧ t.errInfo = 0#32) ∨
    (s.err = 0#3 ∧ (i, t.err.toNat) ∈
      [(Instr.compose, 1), (Instr.embed, 2), (Instr.stpix, 2), (Instr.parse, 3), (Instr.extract, 3),
        (Instr.extract, 4), (Instr.ldpix, 4)])

/-- What ERRINFO records when a command raises: SIZE for COMPOSE, PLEN for EMBED, IDX for STPIX and LDPIX, a header index
0, 29 or 1 to 8 for MalformedHeader, and for EXTRACT on a short carrier 30 (fewer than 30 pixels) or 30 + size, at most
100,000,029 (60_exceptions.md, section 1). -/
def Obligations.ErrInfoIsTheOffendingValue : Prop :=
  ∀ (i : Instr) (s t : State), exec i s = .next t → s.err = 0#3 → t.err ≠ 0#3 →
    (i = .compose ∧ t.errInfo = s.size) ∨ (i = .embed ∧ t.errInfo = s.plen) ∨
    ((i = .stpix ∨ i = .ldpix) ∧ t.errInfo = s.idx) ∨
    ((i = .parse ∨ i = .extract) ∧ t.err = 3#3 ∧ (t.errInfo.toNat ≤ 8 ∨ t.errInfo.toNat = 29)) ∨
    (i = .extract ∧ t.err = 4#3 ∧ s.rows.toNat * s.cols.toNat < 30 ∧ t.errInfo = 30#32) ∨
    (i = .extract ∧ t.err = 4#3 ∧ 30 ≤ s.rows.toNat * s.cols.toNat ∧ t.errInfo.toNat = 30 + t.size.toNat ∧
      s.rows.toNat * s.cols.toNat < 30 + t.size.toNat ∧ t.errInfo.toNat ≤ 100000029)

/-- What a raising command leaves written besides STATUS.ERR and ERRINFO: nothing at all, but for EXTRACT, which may
leave HDR, IDX, SIZE, NLEN and NAME (60_exceptions.md, section 2). -/
def Obligations.RaisingCommandsLeaveTheRest : Prop :=
  ∀ (i : Instr) (s t : State), exec i s = .next t → s.err = 0#3 → t.err ≠ 0#3 →
    (i ≠ .extract → t = s.setLatch t.err t.errInfo) ∧
    (i = .extract → ∃ (h : Vector Byte 30) (x v : Word) (n : Byte) (nm : Vector Byte 255),
      t = (((((s.setHdr h).setIdx x).setSize v).setNlen n).setName nm).setLatch t.err t.errInfo)

/-! ### Control commands -/

/-- NOP, word 0: any state gives the same state, so a latched error stays (R170). -/
def Obligations.NopChangesNothing : Prop :=
  decode 0x00000000#32 = some .nop ∧ ∀ s : State, exec .nop s = .next s

/-- CLRERR, word 0xF, sets STATUS.ERR and ERRINFO to 0 and changes nothing else, whether or not an error is latched; with ERR = 0
(and so ERRINFO = 0) it changes nothing; it is the only command with an effect while an error is latched (R171). -/
def Obligations.ClrerrClearsTheLatch : Prop :=
  decode 0x0000000F#32 = some .clrerr ∧ ∀ s : State, exec .clrerr s = .next (s.setLatch 0#3 0#32) ∧
    (s.err = 0#3 → s.errInfo = 0#32 → exec .clrerr s = .next s) ∧
    (s.err ≠ 0#3 → ∀ i : Instr, i ≠ .clrerr → exec i s = .next s)

/-! ### The bit-plane commands -/

/-- SPLIT, word 1, writes TRIPLE, as one number BYTE zero-extended; its three fields are BYTE[7:5] (never above 7), BYTE[4:2]
and BYTE[1:0] (R113). -/
def Obligations.SplitWritesTheTriple : Prop :=
  decode 0x00000001#32 = some .split ∧ ∀ s : State, s.err = 0#3 →
    exec .split s = .next (s.setTriple (s.byte.setWidth 10)) ∧
    (tripleG0 (s.byte.setWidth 10)).toNat = s.byte.toNat / 32 ∧
    (tripleG0 (s.byte.setWidth 10)).toNat ≤ 7 ∧
    (tripleG1 (s.byte.setWidth 10)).toNat = s.byte.toNat / 4 % 8 ∧
    (tripleG2 (s.byte.setWidth 10)).toNat = s.byte.toNat % 4

/-- MERGE, word 2, writes BYTE, as one number TRIPLE[7:0], which is the low 8 bits of ((G0 << 3 | G1) << 2) | G2: bits 4:3 of
G0 are ignored (R114). -/
def Obligations.MergeWritesTheByte : Prop :=
  decode 0x00000002#32 = some .merge ∧ ∀ s : State, s.err = 0#3 →
    exec .merge s = .next (s.setByte (s.triple.setWidth 8)) ∧
    (s.triple.setWidth 8).toNat =
      (((tripleG0 s.triple).toNat * 8 + (tripleG1 s.triple).toNat) * 4 + (tripleG2 s.triple).toNat) % 256

/-- Splitting a byte and merging the triple gives the byte back, splitting a merged triple in range gives the groups
back, and at the commands: SPLIT, any write of BYTE, MERGE restores BYTE (R112). -/
def Obligations.SplitAndMergeAreInverse : Prop :=
  (∀ n : Byte, mergeGroups (group0 n) (group1 n) (group2 n) = n) ∧
  (∀ g0 g1 g2 : Byte, g0.toNat ≤ 7 → g1.toNat ≤ 7 → g2.toNat ≤ 3 →
    group0 (mergeGroups g0 g1 g2) = g0 ∧ group1 (mergeGroups g0 g1 g2) = g1 ∧
    group2 (mergeGroups g0 g1 g2) = g2) ∧
  (∀ (s t u : State) (b : Byte), s.err = 0#3 → exec .split s = .next t → exec .merge (t.setByte b) = .next u →
    u.byte = s.byte)

/-- PACK, word 3, writes PIX, as one 24-bit number (PIX[23:18], BYTE[1:0], PIX[15:11], BYTE[4:2], PIX[7:3], BYTE[7:5]); each
channel moves by at most 7, 7 and 3 (R118). -/
def Obligations.PackWritesThePixel : Prop :=
  decode 0x00000003#32 = some .pack ∧ ∀ s : State, s.err = 0#3 →
    exec .pack s = .next (s.setPix
      (((s.pix.extractLsb' 18 6).setWidth 24 <<< 18) ||| ((s.byte.extractLsb' 0 2).setWidth 24 <<< 16) |||
        ((s.pix.extractLsb' 11 5).setWidth 24 <<< 11) ||| ((s.byte.extractLsb' 2 3).setWidth 24 <<< 8) |||
        ((s.pix.extractLsb' 3 5).setWidth 24 <<< 3) ||| (s.byte.extractLsb' 5 3).setWidth 24)) ∧
    (∀ t, exec .pack s = .next t →
      (pixelCh0 t.pix).toNat ≤ (pixelCh0 s.pix).toNat + 7 ∧ (pixelCh0 s.pix).toNat ≤ (pixelCh0 t.pix).toNat + 7 ∧
      (pixelCh1 t.pix).toNat ≤ (pixelCh1 s.pix).toNat + 7 ∧ (pixelCh1 s.pix).toNat ≤ (pixelCh1 t.pix).toNat + 7 ∧
      (pixelCh2 t.pix).toNat ≤ (pixelCh2 s.pix).toNat + 3 ∧ (pixelCh2 s.pix).toNat ≤ (pixelCh2 t.pix).toNat + 3)

/-- UNPACK, word 4, writes BYTE, as one number (PIX[2:0], PIX[10:8], PIX[17:16]), and changes nothing else (R119). -/
def Obligations.UnpackWritesTheByte : Prop :=
  decode 0x00000004#32 = some .unpack ∧ ∀ s : State, s.err = 0#3 →
    exec .unpack s = .next (s.setByte
      (((s.pix.extractLsb' 0 3).setWidth 8 <<< 5) ||| ((s.pix.extractLsb' 8 3).setWidth 8 <<< 2) |||
        (s.pix.extractLsb' 16 2).setWidth 8))

/-- The four laws of pack and unpack (R120). -/
def Obligations.PackAndUnpackLaws : Prop :=
  ∀ (p : Pixel) (n m : Byte),
    unpackPixel (packPixel p n) = n ∧
    packPixel (packPixel p m) n = packPixel p n ∧
    packPixel p (unpackPixel p) = p ∧
    (pixelCh0 (packPixel p n)).extractLsb' 3 5 = (pixelCh0 p).extractLsb' 3 5 ∧
    (pixelCh1 (packPixel p n)).extractLsb' 3 5 = (pixelCh1 p).extractLsb' 3 5 ∧
    (pixelCh2 (packPixel p n)).extractLsb' 2 6 = (pixelCh2 p).extractLsb' 2 6

/-- The lanes do not interact: lane `ch` of pack reads only channel `ch` and group `ch`, lane `ch` of unpack reads
only channel `ch` (41_bit_plane.md, section 8). -/
def Obligations.LanesDoNotInteract : Prop :=
  ∀ (p q : Pixel) (n m : Byte),
    (pixelCh0 p = pixelCh0 q →
      (group0 n = group0 m → pixelCh0 (packPixel p n) = pixelCh0 (packPixel q m)) ∧
      group0 (unpackPixel p) = group0 (unpackPixel q)) ∧
    (pixelCh1 p = pixelCh1 q →
      (group1 n = group1 m → pixelCh1 (packPixel p n) = pixelCh1 (packPixel q m)) ∧
      group1 (unpackPixel p) = group1 (unpackPixel q)) ∧
    (pixelCh2 p = pixelCh2 q →
      (group2 n = group2 m → pixelCh2 (packPixel p n) = pixelCh2 (packPixel q m)) ∧
      group2 (unpackPixel p) = group2 (unpackPixel q))

/-! ### The pixel iterator -/

/-- IRST, word 0xC, sets IDX to 0; INEXT, word 7, adds 1 modulo 2^32, looking at neither ROWS nor COLS, and never wraps from an index in
range (R132, R133). -/
def Obligations.IteratorStepsTheIndex : Prop :=
  decode 0x0000000C#32 = some .irst ∧ decode 0x00000007#32 = some .inext ∧ ∀ s : State, s.err = 0#3 →
    exec .irst s = .next (s.setIdx 0#32) ∧
    exec .inext s = .next (s.setIdx (BitVec.ofNat 32 ((s.idx.toNat + 1) % 2 ^ 32))) ∧
    (s.idx.toNat < s.rows.toNat * s.cols.toNat →
      exec .inext s = .next (s.setIdx (BitVec.ofNat 32 (s.idx.toNat + 1))) ∧ s.idx.toNat + 1 < 2 ^ 32)

/-- The raster mapping: for an index in range, COLS is at least 1, both coordinates name a pixel that exists, and
`row * COLS + col` recovers the index; every pixel of the grid has exactly one index (R130). -/
def Obligations.RasterOrderIsOneToOne : Prop :=
  ∀ rows cols : Dim,
    (∀ i : Nat, i < rows.toNat * cols.toNat →
      1 ≤ cols.toNat ∧ (rasterRow cols i).toNat = i / cols.toNat ∧ (rasterCol cols i).toNat = i % cols.toNat ∧
      (rasterRow cols i).toNat < rows.toNat ∧ (rasterCol cols i).toNat < cols.toNat ∧
      (rasterRow cols i).toNat * cols.toNat + (rasterCol cols i).toNat = i) ∧
    (∀ row col : Dim, row.toNat < rows.toNat → col.toNat < cols.toNat →
      ∃! i : Nat, i < rows.toNat * cols.toNat ∧ rasterRow cols i = row ∧ rasterCol cols i = col)

/-- LDPIX, word 5: with the index in range PIX takes the three channels of the pixel at row IDX / COLS, column IDX % COLS;
out of range it raises TruncatedCarrier with ERRINFO = IDX. Nothing else changes (R134). -/
def Obligations.LdpixLoadsOrRaises : Prop :=
  decode 0x00000005#32 = some .ldpix ∧ ∀ s : State, s.err = 0#3 →
    (s.idx.toNat < s.rows.toNat * s.cols.toNat →
      ∀ row col : Dim, row.toNat = s.idx.toNat / s.cols.toNat → col.toNat = s.idx.toNat % s.cols.toNat →
        exec .ldpix s = .next (s.setPix (carRead s.car row col))) ∧
    (s.rows.toNat * s.cols.toNat ≤ s.idx.toNat → exec .ldpix s = .next (s.setLatch 4#3 s.idx))

/-- STPIX, word 6: with the index in range the pixel at row IDX / COLS, column IDX % COLS takes PIX, whatever it holds, and
every other pixel and every register is unchanged; out of range it raises CapacityOverflow with ERRINFO = IDX and
changes nothing else (R135). -/
def Obligations.StpixStoresOrRaises : Prop :=
  decode 0x00000006#32 = some .stpix ∧ ∀ s : State, s.err = 0#3 →
    (s.idx.toNat < s.rows.toNat * s.cols.toNat →
      ∃ m : Memory 24, exec .stpix s = .next (s.setCar m) ∧
        ∀ row col : Dim,
          (row.toNat = s.idx.toNat / s.cols.toNat ∧ col.toNat = s.idx.toNat % s.cols.toNat →
            carRead m row col = s.pix) ∧
          (¬ (row.toNat = s.idx.toNat / s.cols.toNat ∧ col.toNat = s.idx.toNat % s.cols.toNat) →
            carRead m row col = carRead s.car row col)) ∧
    (s.rows.toNat * s.cols.toNat ≤ s.idx.toNat → exec .stpix s = .next (s.setLatch 2#3 s.idx))

/-- With ROWS = 0 or COLS = 0 no index is in range: every command that touches the carrier raises, with the kind and
value of its rule, and changes nothing else (R131 through R134, R135, R152, R153). -/
def Obligations.EmptyCarrierAlwaysRaises : Prop :=
  ∀ s : State, s.err = 0#3 → (s.rows = 0#16 ∨ s.cols = 0#16) →
    exec .ldpix s = .next (s.setLatch 4#3 s.idx) ∧ exec .stpix s = .next (s.setLatch 2#3 s.idx) ∧
    exec .embed s = .next (s.setLatch 2#3 s.plen) ∧ exec .extract s = .next (s.setLatch 4#3 30#32)

/-- LDPIX, PACK, STPIX with an index in range change the carrier as `embed_byte` does: the pixel becomes
`pack(old pixel, BYTE)` and no other changes; LDPIX, UNPACK leave in BYTE the byte of that pixel (R136). -/
def Obligations.LoadPackStoreEmbedsAByte : Prop :=
  ∀ s : State, s.err = 0#3 → s.idx.toNat < s.rows.toNat * s.cols.toNat →
    (∃ t1 t2 t3, exec .ldpix s = .next t1 ∧ exec .pack t1 = .next t2 ∧ exec .stpix t2 = .next t3 ∧
      t3.err = 0#3 ∧
      ∀ row col : Dim, carRead t3.car row col =
        if row = rasterRow s.cols s.idx.toNat ∧ col = rasterCol s.cols s.idx.toNat
        then packPixel (carRead s.car row col) s.byte else carRead s.car row col) ∧
    (∃ t1 t2, exec .ldpix s = .next t1 ∧ exec .unpack t1 = .next t2 ∧ t2.err = 0#3 ∧ t2.car = s.car ∧
      t2.byte = unpackPixel (pixelAt s.cols s.car s.idx.toNat))

/-! ### The header codec -/

/-- COMPOSE, word 8, with SIZE at most 99,999,999: HDR becomes the start marker, the eight decimal digits of SIZE, most
significant first, the name right-aligned in 20 bytes (left-padded with underscores, or its last 20 bytes), the end
marker; nothing else changes. A larger SIZE raises SizeOverflow with ERRINFO = SIZE and changes nothing else
(R95, with R91 and R93 written out). -/
def Obligations.ComposeBuildsTheHeader : Prop :=
  decode 0x00000008#32 = some .compose ∧ ∀ s : State, s.err = 0#3 →
    (s.size.toNat ≤ 99999999 →
      ∃ h : Vector Byte 30, exec .compose s = .next (s.setHdr h) ∧
        bufRead h 0 = 0x3C#8 ∧ bufRead h 29 = 0x3E#8 ∧
        (∀ k, k < 8 → (bufRead h (1 + k)).toNat = 0x30 + s.size.toNat / 10 ^ (7 - k) % 10) ∧
        (20 ≤ s.nlen.toNat → ∀ j, j < 20 → bufRead h (9 + j) = bufRead s.name (s.nlen.toNat - 20 + j)) ∧
        (s.nlen.toNat < 20 → ∀ j, j < 20 - s.nlen.toNat → bufRead h (9 + j) = 0x5F#8) ∧
        (s.nlen.toNat < 20 → ∀ j, 20 - s.nlen.toNat ≤ j → j < 20 →
          bufRead h (9 + j) = bufRead s.name (j - (20 - s.nlen.toNat)))) ∧
    (99999999 < s.size.toNat → exec .compose s = .next (s.setLatch 1#3 s.size))

/-- PARSE, word 9. On a header with a wrong marker or a size byte that is no digit it raises MalformedHeader with the
index of the first offending byte, byte 0 before byte 29 before bytes 1 to 8 in rising order, and changes nothing else.
On any other header SIZE takes the number its eight digits state, NLEN and NAME[0..NLEN-1] the filename field without
its leading and trailing underscores (bytes `a` to `a + n - 1` of the field), and the rest of NAME and every other field
is unchanged (R96, R97, with R92 and R94 written out). -/
def Obligations.ParseDeliversOrRaises : Prop :=
  decode 0x00000009#32 = some .parse ∧ ∀ s : State, s.err = 0#3 →
    (bufRead s.hdr 0 ≠ 0x3C#8 → exec .parse s = .next (s.setLatch 3#3 0#32)) ∧
    (bufRead s.hdr 0 = 0x3C#8 → bufRead s.hdr 29 ≠ 0x3E#8 → exec .parse s = .next (s.setLatch 3#3 29#32)) ∧
    (∀ k, k < 8 → bufRead s.hdr 0 = 0x3C#8 → bufRead s.hdr 29 = 0x3E#8 →
      (∀ j, j < k → 0x30 ≤ (bufRead s.hdr (1 + j)).toNat ∧ (bufRead s.hdr (1 + j)).toNat ≤ 0x39) →
      ((bufRead s.hdr (1 + k)).toNat < 0x30 ∨ 0x39 < (bufRead s.hdr (1 + k)).toNat) →
      exec .parse s = .next (s.setLatch 3#3 (BitVec.ofNat 32 (1 + k)))) ∧
    (bufRead s.hdr 0 = 0x3C#8 → bufRead s.hdr 29 = 0x3E#8 →
      (∀ k, k < 8 → 0x30 ≤ (bufRead s.hdr (1 + k)).toNat ∧ (bufRead s.hdr (1 + k)).toNat ≤ 0x39) →
      ∃ (v : Word) (nm : Vector Byte 255) (a n : Nat),
        exec .parse s = .next (((s.setSize v).setName nm).setNlen (BitVec.ofNat 8 n)) ∧
        v.toNat = ((bufRead s.hdr 1).toNat - 0x30) * 10000000 + ((bufRead s.hdr 2).toNat - 0x30) * 1000000 +
          ((bufRead s.hdr 3).toNat - 0x30) * 100000 + ((bufRead s.hdr 4).toNat - 0x30) * 10000 +
          ((bufRead s.hdr 5).toNat - 0x30) * 1000 + ((bufRead s.hdr 6).toNat - 0x30) * 100 +
          ((bufRead s.hdr 7).toNat - 0x30) * 10 + ((bufRead s.hdr 8).toNat - 0x30) ∧
        a + n ≤ 20 ∧ (∀ j, j < a → bufRead s.hdr (9 + j) = 0x5F#8) ∧
        (∀ j, a + n ≤ j → j < 20 → bufRead s.hdr (9 + j) = 0x5F#8) ∧
        (0 < n → bufRead s.hdr (9 + a) ≠ 0x5F#8 ∧ bufRead s.hdr (9 + (a + n - 1)) ≠ 0x5F#8) ∧
        (∀ j, j < n → bufRead nm j = bufRead s.hdr (9 + (a + j))) ∧
        (∀ j, n ≤ j → bufRead nm j = bufRead s.name j))

/-- The size field's formatter and parser are inverse: `undec8(dec8(v)) = ok(v)` for every `v` in range, and the
parser never states a number above 99,999,999 (R92). -/
def Obligations.SizeFieldRoundTrip : Prop :=
  (∀ v : Nat, v ≤ 99999999 → undec8 (dec8 v) = .ok v) ∧
  (∀ (d : Nat → Byte) (v : Nat), undec8 d = .ok v → v ≤ 99999999)

/-- Every header COMPOSE writes satisfies `parse_hdr(HDR) = ok(SIZE, strip_us(name20(s, NLEN)))`: byte 0 is 0x3C, byte
29 is 0x3E, bytes 1 to 8 are digits. So PARSE never raises on a header COMPOSE wrote (R101). -/
def Obligations.ComposedHeadersParse : Prop :=
  ∀ s t : State, s.err = 0#3 → s.size.toNat ≤ 99999999 → exec .compose s = .next t →
    parseHdr (bufRead t.hdr) = .ok (s.size.toNat, stripUs (name20 (bufRead s.name) s.nlen.toNat)) ∧
    bufRead t.hdr 0 = 0x3C#8 ∧ bufRead t.hdr 29 = 0x3E#8 ∧
    (∀ k, 1 ≤ k → k ≤ 8 → 0x30 ≤ (bufRead t.hdr k).toNat ∧ (bufRead t.hdr k).toNat ≤ 0x39) ∧
    ∃ u, exec .parse t = .next u ∧ u.err = 0#3

/-- Header round trip: for SIZE in 0 to 99,999,999 and a filename of at most 20 bytes that is empty or whose first and
last bytes are no underscore (every name of length 1 to 20 with no underscore is one), COMPOSE followed by PARSE gives
back SIZE, NLEN and NAME[0..NLEN-1], whatever those registers hold in between (R98). -/
def Obligations.HeaderRoundTrip : Prop :=
  ∀ (s t u : State) (v : Word) (l : Byte) (nm : Vector Byte 255),
    s.err = 0#3 → s.size.toNat ≤ 99999999 → s.nlen.toNat ≤ 20 →
    (0 < s.nlen.toNat → bufRead s.name 0 ≠ 0x5F#8 ∧ bufRead s.name (s.nlen.toNat - 1) ≠ 0x5F#8) →
    exec .compose s = .next t → exec .parse (((t.setSize v).setNlen l).setName nm) = .next u →
    u.err = 0#3 ∧ u.size = s.size ∧ u.nlen = s.nlen ∧ ∀ j, j < s.nlen.toNat → bufRead u.name j = bufRead s.name j

/-- When the round trip does not give the name back. After COMPOSE then PARSE the name is `strip_us(name20(s, L))`; it
is `s` itself exactly when `s` has at most 20 bytes and neither begins nor ends with an underscore. A name of only
underscores comes back empty, a name of at most 20 bytes without its leading and trailing underscores, and a longer
name is first cut to its last 20 bytes (R99; `stripUs` and `name20` are R94 and R93). -/
def Obligations.NamesThatDoNotComeBack : Prop :=
  (∀ s t u : State, s.err = 0#3 → s.size.toNat ≤ 99999999 → exec .compose s = .next t → exec .parse t = .next u →
    u.nlen.toNat = (stripUs (name20 (bufRead s.name) s.nlen.toNat)).length ∧
    ∀ j, j < u.nlen.toNat → (stripUs (name20 (bufRead s.name) s.nlen.toNat))[j]? = some (bufRead u.name j)) ∧
  (∀ (s : Nat → Byte) (L : Nat), stripUs (name20 s L) = (List.range L).map s ↔
    L ≤ 20 ∧ (0 < L → s 0 ≠ 0x5F#8 ∧ s (L - 1) ≠ 0x5F#8)) ∧
  (∀ (s : Nat → Byte) (L : Nat), (∀ j, j < L → s j = 0x5F#8) → stripUs (name20 s L) = []) ∧
  (∀ (s : Nat → Byte) (L a n : Nat), L ≤ 20 → 0 < n → a + n ≤ L → (∀ j, j < a → s j = 0x5F#8) →
    (∀ j, a + n ≤ j → j < L → s j = 0x5F#8) → s a ≠ 0x5F#8 → s (a + n - 1) ≠ 0x5F#8 →
    stripUs (name20 s L) = (List.range n).map fun j => s (a + j)) ∧
  (∀ (s : Nat → Byte) (L : Nat), 20 < L → stripUs (name20 s L) = stripUs fun j => s (L - 20 + j))

/-! ### The stream commands -/

/-- EMBED, word 0xA. Of a stream that fits: the pixel of raster index `i` is packed with stream byte `i` (HDR[i] for
`i < 30`, PAY[i - 30] after) for every `i < 30 + PLEN`, every other pixel is unchanged, IDX becomes 30 + PLEN, which fits
32 bits, and no other field changes. Of a stream that does not fit: CapacityOverflow with ERRINFO = PLEN, and nothing
is written (R150, R151). -/
def Obligations.EmbedHidesTheStream : Prop :=
  decode 0x0000000A#32 = some .embed ∧ ∀ s : State, s.err = 0#3 →
    (30 + s.plen.toNat ≤ s.rows.toNat * s.cols.toNat →
      ∃ m : Memory 24,
        exec .embed s = .next ((s.setCar m).setIdx (BitVec.ofNat 32 (30 + s.plen.toNat))) ∧
        30 + s.plen.toNat < 2 ^ 32 ∧
        (∀ i, i < 30 → pixelAt s.cols m i = packPixel (pixelAt s.cols s.car i) (bufRead s.hdr i)) ∧
        (∀ k : Word, k.toNat < s.plen.toNat → pixelAt s.cols m (30 + k.toNat) =
          packPixel (pixelAt s.cols s.car (30 + k.toNat)) (payRead s.pay k)) ∧
        (∀ row col : Dim,
          (∀ i, i < 30 + s.plen.toNat → ¬ (row = rasterRow s.cols i ∧ col = rasterCol s.cols i)) →
          carRead m row col = carRead s.car row col)) ∧
    (s.rows.toNat * s.cols.toNat < 30 + s.plen.toNat → exec .embed s = .next (s.setLatch 2#3 s.plen))

/-- EMBED of a stream that does not fit raises CapacityOverflow with ERRINFO = PLEN and writes nothing at all; the sum
30 + PLEN is exact, so PLEN = 0xFFFFFFFF always raises (R152). -/
def Obligations.EmbedTooLargeWritesNothing : Prop :=
  ∀ s : State, s.err = 0#3 →
    (s.rows.toNat * s.cols.toNat < 30 + s.plen.toNat → exec .embed s = .next (s.setLatch 2#3 s.plen)) ∧
    (s.plen = 0xFFFFFFFF#32 → exec .embed s = .next (s.setLatch 2#3 s.plen))

/-- EMBED run twice leaves the carrier that running it once leaves, as data (20_memory.md, section 4). The premise is
the canonical form, which `EveryStepKeepsTheInvariant` keeps. -/
def Obligations.EmbedTwiceIsOnce : Prop :=
  ∀ s t u : State, s.err = 0#3 → Memory.wf s.car → exec .embed s = .next t → exec .embed t = .next u →
    u.car = t.car

/-- Every pixel keeps its high bits under EMBED: bits 7:3 of channels 0 and 1 and bits 7:2 of channel 2
(41_bit_plane.md, section 5). -/
def Obligations.EmbedKeepsTheHighBits : Prop :=
  ∀ (s t : State) (row col : Dim), exec .embed s = .next t →
    (pixelCh0 (carRead t.car row col)).extractLsb' 3 5 = (pixelCh0 (carRead s.car row col)).extractLsb' 3 5 ∧
    (pixelCh1 (carRead t.car row col)).extractLsb' 3 5 = (pixelCh1 (carRead s.car row col)).extractLsb' 3 5 ∧
    (pixelCh2 (carRead t.car row col)).extractLsb' 2 6 = (pixelCh2 (carRead s.car row col)).extractLsb' 2 6

/-- EXTRACT, word 0xB. With `h` the 30 bytes hidden in the first 30 pixels: fewer than 30 pixels raise TruncatedCarrier
with ERRINFO = 30 and write nothing; a header that does not parse raises MalformedHeader with the offending index and
leaves HDR = h, IDX = 30; one that parses to more bytes than there are pixels for raises TruncatedCarrier with ERRINFO =
30 + size and leaves HDR, IDX = 30, SIZE, NLEN and NAME; otherwise HDR = h, SIZE, NLEN and NAME are what it parses to,
PAY[0..size-1] the bytes hidden in the next pixels, PLEN = size, IDX = 30 + size. NAME beyond NLEN, PAY beyond size and
every other field, the carrier among them, are unchanged (R153, R154). -/
def Obligations.ExtractRecoversOrRaises : Prop :=
  decode 0x0000000B#32 = some .extract ∧ ∀ s : State, s.err = 0#3 →
    (s.rows.toNat * s.cols.toNat < 30 → exec .extract s = .next (s.setLatch 4#3 30#32)) ∧
    (∀ h : Vector Byte 30, 30 ≤ s.rows.toNat * s.cols.toNat →
      (∀ j, j < 30 → bufRead h j = unpackPixel (pixelAt s.cols s.car j)) →
      (∀ j, parseHdr (bufRead h) = .error j →
        exec .extract s = .next (((s.setHdr h).setIdx 30#32).setLatch 3#3 (BitVec.ofNat 32 j))) ∧
      (∀ (v : Nat) (nm : List Byte), parseHdr (bufRead h) = .ok (v, nm) →
        ∃ (name : Vector Byte 255) (pay : Memory 8),
          v ≤ 99999999 ∧ nm.length ≤ 20 ∧
          (∀ j, j < nm.length → nm[j]? = some (bufRead name j)) ∧
          (∀ j, nm.length ≤ j → bufRead name j = bufRead s.name j) ∧
          (∀ k : Word, payRead pay k =
            if k.toNat < v then unpackPixel (pixelAt s.cols s.car (30 + k.toNat)) else payRead s.pay k) ∧
          (s.rows.toNat * s.cols.toNat < 30 + v →
            exec .extract s = .next ((((((s.setHdr h).setIdx 30#32).setSize (BitVec.ofNat 32 v)).setName name).setNlen
              (BitVec.ofNat 8 nm.length)).setLatch 4#3 (BitVec.ofNat 32 (30 + v)))) ∧
          (30 + v ≤ s.rows.toNat * s.cols.toNat →
            exec .extract s = .next (((((((s.setHdr h).setSize (BitVec.ofNat 32 v)).setName name).setNlen
              (BitVec.ofNat 8 nm.length)).setPay pay).setPlen (BitVec.ofNat 32 v)).setIdx
              (BitVec.ofNat 32 (30 + v))))))

/-- The end-to-end round trip: with room for 30 + N pixels and N at most 99,999,999, the script WR SIZE, N; WR PLEN, N;
COMPOSE; EMBED; EXTRACT ends good, with PAY[0..N-1] unchanged, PLEN = SIZE = N, IDX = 30 + N, HDR as COMPOSE wrote it,
and NAME, NLEN equal to strip_us(name20(filename, L)) (R157). -/
def Obligations.EmbedThenExtractRoundTrip : Prop :=
  ∀ (s : State) (N : Word), s.err = 0#3 → N.toNat ≤ 99999999 → 30 + N.toNat ≤ s.rows.toNat * s.cols.toNat →
    ∃ t : State,
      core.run 5 (s.setScript [.wr 5 N, .wr 6 N, command .compose, command .embed, command .extract]) = .next t ∧
      t.ended ∧ t.good ∧ t.plen = N ∧ t.size = N ∧ t.idx.toNat = 30 + N.toNat ∧
      (∀ k : Word, k.toNat < N.toNat → payRead t.pay k = payRead s.pay k) ∧
      t.hdr = hdrOf (composedByte N.toNat (bufRead s.name) s.nlen.toNat) ∧
      t.nlen.toNat = (stripUs (name20 (bufRead s.name) s.nlen.toNat)).length ∧
      (∀ j, j < t.nlen.toNat →
        (stripUs (name20 (bufRead s.name) s.nlen.toNat))[j]? = some (bufRead t.name j))

/-- EMBED against the host script of R155, one PUTBYTE for each stream byte. When EMBED does not raise it leaves CAR and
IDX exactly as the script leaves them; the script also leaves the last byte in BYTE and the last packed pixel in PIX, and
no other field differs. When 30 + PLEN > NPIX, EMBED raises CapacityOverflow with ERRINFO = PLEN before touching
anything, where the script embeds the first NPIX bytes and then faults at the first LDPIX out of range with
TruncatedCarrier, ERRINFO = NPIX, and does nothing after but its writes of BYTE; PIX is then the last packed pixel, or as
it was with no pixel, and no pixel outside the grid has changed (R155). -/
def Obligations.EmbedEqualsTheByteLoop : Prop :=
  ∀ s : State, s.err = 0#3 →
    (30 + s.plen.toNat ≤ s.rows.toNat * s.cols.toNat →
      ∃ (t u : State) (b : Byte) (p : Pixel),
        exec .embed s = .next t ∧
        core.run (embedByHand s).length (s.setScript (embedByHand s)) = .next u ∧
        u = ((t.setScript []).setByte b).setPix p ∧
        b = streamByte s.hdr s.pay (30 + s.plen.toNat - 1) ∧
        p = pixelAt s.cols t.car (30 + s.plen.toNat - 1)) ∧
    (s.rows.toNat * s.cols.toNat < 30 + s.plen.toNat →
      exec .embed s = .next (s.setLatch 2#3 s.plen) ∧
      ∃ (u : State) (m : Memory 24) (p : Pixel),
        core.run (embedByHand s).length (s.setScript (embedByHand s)) = .next u ∧
        u = (((((s.setScript []).setCar m).setIdx (BitVec.ofNat 32 (s.rows.toNat * s.cols.toNat))).setByte
          (streamByte s.hdr s.pay (30 + s.plen.toNat - 1))).setPix p).setLatch 4#3
            (BitVec.ofNat 32 (s.rows.toNat * s.cols.toNat)) ∧
        (s.rows.toNat * s.cols.toNat = 0 → p = s.pix) ∧
        (0 < s.rows.toNat * s.cols.toNat → p = pixelAt s.cols m (s.rows.toNat * s.cols.toNat - 1)) ∧
        (∀ i, i < s.rows.toNat * s.cols.toNat →
          pixelAt s.cols m i = packPixel (pixelAt s.cols s.car i) (streamByte s.hdr s.pay i)) ∧
        (∀ row col : Dim, ¬ (row.toNat < s.rows.toNat ∧ col.toNat < s.cols.toNat) →
          carRead m row col = carRead s.car row col))

/-- EXTRACT against the host script of R156, whose lines write each byte the line before has just read (assumption 16) and
whose second part is the one for the size that `RD SIZE` has returned; the size is what SIZE holds after EXTRACT. When
EXTRACT does not raise, the script leaves HDR, SIZE, NLEN, NAME, PAY, PLEN and IDX as EXTRACT leaves them, and the last
byte in BYTE and the last pixel in PIX. On a short carrier it faults at the first LDPIX out of range with ERRINFO = NPIX,
after having written the bytes before that point: with fewer than 30 pixels the header is not parsed, and the rest of HDR
and then PAY[0..SIZE-1] take the byte that is still in BYTE; with a parsed header the rest of PAY takes it. On a header
that does not parse PARSE raises what EXTRACT raises, and PAY[0..SIZE-1] takes the last header byte. The readings are the
model's list (assumption 4). (R156; the header that does not parse and the bytes written after the fault follow from
R188.) -/
def Obligations.ExtractEqualsTheByteLoop : Prop :=
  ∀ s t : State, s.err = 0#3 → exec .extract s = .next t →
    ∃ (u w : State) (b : Byte) (p : Pixel) (m : Memory 8) (r : List Word),
      core.run extractHeadByHand.length (s.setScript extractHeadByHand) = .next u ∧
      u.readBack.head? = some t.size ∧
      core.run (extractTailByHand t.size).length (u.setScript (extractTailByHand t.size)) = .next w ∧
      (t.err = 0#3 →
        w = (((t.setScript []).setReadBack r).setByte b).setPix p ∧
        b = hiddenByte s.cols s.car (29 + t.size.toNat) ∧ p = pixelAt s.cols s.car (29 + t.size.toNat) ∧
        r = ((List.range 30).map (fun j => (hiddenByte s.cols s.car j).setWidth 32) ++ [t.size] ++
          (List.range t.size.toNat).map (fun k => (hiddenByte s.cols s.car (30 + k)).setWidth 32)).reverse ++
          s.readBack) ∧
      (s.rows.toNat * s.cols.toNat < 30 →
        ∃ h : Vector Byte 30,
          w = ((((((((s.setScript []).setReadBack r).setHdr h).setIdx
            (BitVec.ofNat 32 (s.rows.toNat * s.cols.toNat))).setByte b).setPix p).setPay m).setPlen s.size).setLatch 4#3
              (BitVec.ofNat 32 (s.rows.toNat * s.cols.toNat)) ∧
          (s.rows.toNat * s.cols.toNat = 0 → b = s.byte ∧ p = s.pix) ∧
          (0 < s.rows.toNat * s.cols.toNat →
            b = hiddenByte s.cols s.car (s.rows.toNat * s.cols.toNat - 1) ∧
            p = pixelAt s.cols s.car (s.rows.toNat * s.cols.toNat - 1)) ∧
          (∀ j, j < 30 → bufRead h j =
            if j < s.rows.toNat * s.cols.toNat then hiddenByte s.cols s.car j else b) ∧
          (∀ k : Word, payRead m k = if k.toNat < s.size.toNat then b else payRead s.pay k)) ∧
      (30 ≤ s.rows.toNat * s.cols.toNat → t.err = 4#3 →
        w = (((((((t.setScript []).setReadBack r).setIdx
          (BitVec.ofNat 32 (s.rows.toNat * s.cols.toNat))).setByte b).setPix p).setPay m).setPlen t.size).setLatch 4#3
            (BitVec.ofNat 32 (s.rows.toNat * s.cols.toNat)) ∧
        b = hiddenByte s.cols s.car (s.rows.toNat * s.cols.toNat - 1) ∧
        p = pixelAt s.cols s.car (s.rows.toNat * s.cols.toNat - 1) ∧
        (∀ k : Word, payRead m k =
          if k.toNat < t.size.toNat then
            if 30 + k.toNat < s.rows.toNat * s.cols.toNat then hiddenByte s.cols s.car (30 + k.toNat) else b
          else payRead s.pay k)) ∧
      (t.err = 3#3 →
        w = (((((t.setScript []).setReadBack r).setByte b).setPix p).setPay m).setPlen t.size ∧
        b = hiddenByte s.cols s.car 29 ∧ p = pixelAt s.cols s.car 29 ∧
        (∀ k : Word, payRead m k = if k.toNat < t.size.toNat then b else payRead s.pay k))

/-- HIDE with SIZE too large leaves the carrier, the header and everything but the latch untouched: COMPOSE raises and
the EMBED after it does nothing (R79, R188). -/
def Obligations.HideStopsAtTheFirstError : Prop :=
  ∀ (s : State) (rest : List HostAction), s.err = 0#3 → 99999999 < s.size.toNat →
    core.run 2 (s.setScript (hide ++ rest)) = .next ((s.setScript rest).setLatch 1#3 s.size)

/-! ### The host's port -/

/-- The register port. A `WR` line, an error latched or not, takes its line and changes one register, which keeps the low
bits that fit; STATUS, ERRINFO and numbers 12 and above ignore it; nothing else changes, so HDR, NAME, CAR and PAY stay.
What was written reads back zero-extended, no other register reads otherwise, numbers 12 and above and CMD read 0 (R20,
R78; R21 for the read of CMD). -/
def Obligations.RegisterPortKeepsTheLowBits : Prop :=
  ∀ (s : State) (v : Word),
    (∀ (q : State) (n : Nat) (rest : List HostAction), q.script = .wr n v :: rest →
      (n = 3 → step q = .next ((q.setScript rest).setRows (v.setWidth 16))) ∧
      (n = 4 → step q = .next ((q.setScript rest).setCols (v.setWidth 16))) ∧
      (n = 5 → step q = .next ((q.setScript rest).setSize v)) ∧
      (n = 6 → step q = .next ((q.setScript rest).setPlen v)) ∧
      (n = 7 → step q = .next ((q.setScript rest).setIdx v)) ∧
      (n = 8 → step q = .next ((q.setScript rest).setByte (v.setWidth 8))) ∧
      (n = 9 → step q = .next ((q.setScript rest).setTriple (v.setWidth 10))) ∧
      (n = 10 → step q = .next ((q.setScript rest).setPix (v.setWidth 24))) ∧
      (n = 11 → step q = .next ((q.setScript rest).setNlen (v.setWidth 8))) ∧
      (n = 1 ∨ n = 2 ∨ 12 ≤ n → step q = .next (q.setScript rest)) ∧
      (n ≠ 0 → step q = .next (writeReg (q.setScript rest) n v))) ∧
    (∀ n : Nat, (writeReg s n v).hdr = s.hdr ∧ (writeReg s n v).name = s.name ∧ (writeReg s n v).car = s.car ∧
      (writeReg s n v).pay = s.pay ∧ (writeReg s n v).err = s.err ∧ (writeReg s n v).errInfo = s.errInfo) ∧
    (∀ c ∈ [(3, 16), (4, 16), (5, 32), (6, 32), (7, 32), (8, 8), (9, 10), (10, 24), (11, 8)],
      (readReg (writeReg s c.1 v) c.1).toNat = v.toNat % 2 ^ c.2 ∧ (readReg s c.1).toNat < 2 ^ c.2) ∧
    (∀ n m : Nat, n ≠ m → readReg (writeReg s n v) m = readReg s m) ∧
    (∀ n : Nat, n = 1 ∨ n = 2 ∨ 12 ≤ n → writeReg s n v = s) ∧
    (∀ n : Nat, n = 0 ∨ 12 ≤ n → readReg s n = 0#32) ∧
    (readReg s 1).toNat < 8

/-- The buffer port. A `WRB` line, an error latched or not, takes its line and changes only the buffer it names. A write
inside the buffer is what a later read gives, a write outside does nothing, a read outside gives 0, and no other byte of
either buffer changes (R53, R78). -/
def Obligations.BufferPortReadsBack : Prop :=
  ∀ (s : State) (v : Byte) (j k : Nat),
    (∀ (q : State) (rest : List HostAction),
      (q.script = .wrb .hdr j v :: rest →
        ∃ h : Vector Byte 30, step q = .next ((q.setScript rest).setHdr h) ∧
          (∀ i, bufRead h i = if i = j ∧ j < 30 then v else bufRead q.hdr i) ∧ (30 ≤ j → h = q.hdr)) ∧
      (q.script = .wrb .name j v :: rest →
        ∃ nm : Vector Byte 255, step q = .next ((q.setScript rest).setName nm) ∧
          (∀ i, bufRead nm i = if i = j ∧ j < 255 then v else bufRead q.name i) ∧ (255 ≤ j → nm = q.name)) ∧
      (∀ b : Buffer, q.script = .wrb b j v :: rest → step q = .next (writeBuffer (q.setScript rest) b j v))) ∧
    readBuffer (writeBuffer s .hdr j v) .hdr k = (if k = j ∧ j < 30 then v else readBuffer s .hdr k) ∧
    readBuffer (writeBuffer s .name j v) .name k = (if k = j ∧ j < 255 then v else readBuffer s .name k) ∧
    (30 ≤ j → writeBuffer s .hdr j v = s ∧ readBuffer s .hdr j = 0#8) ∧
    (255 ≤ j → writeBuffer s .name j v = s ∧ readBuffer s .name j = 0#8) ∧
    readBuffer (writeBuffer s .hdr j v) .name k = readBuffer s .name k ∧
    readBuffer (writeBuffer s .name j v) .hdr k = readBuffer s .hdr k

/-- The host's writes of CAR and PAY: a later read of the element gives the value written, and every other element and
every other field is unchanged (R62, at the host's port). The clause of WRC covers every pair of 16-bit numbers; for a
pair outside the ROWS by COLS grid, where R51 gives no pixel, it is the model's own choice (assumption 5, unsafe), and so
is it that a pixel is kept whatever ROWS and COLS hold. -/
def Obligations.MemoryPortReadsBack : Prop :=
  (∀ (s : State) (rest : List HostAction) (k : Word) (b : Byte), s.script = .wrp k b :: rest →
    ∃ m : Memory 8, step s = .next ((s.setScript rest).setPay m) ∧
      ∀ j : Word, payRead m j = if j = k then b else payRead s.pay j) ∧
  (∀ (s : State) (rest : List HostAction) (r c : Dim) (v0 v1 v2 : Byte), s.script = .wrc r c v0 v1 v2 :: rest →
    ∃ m : Memory 24, step s = .next ((s.setScript rest).setCar m) ∧
      (pixelCh0 (carRead m r c) = v0 ∧ pixelCh1 (carRead m r c) = v1 ∧ pixelCh2 (carRead m r c) = v2) ∧
      ∀ r' c' : Dim, ¬ (r' = r ∧ c' = c) → carRead m r' c' = carRead s.car r' c')

/-- No read has a side effect: a read line takes its line and adds the value read to what the host has seen (the model's
list, assumption 4), and changes nothing else; the same line again gives the same value (R59). The value is, for RD, that
of the register of that number, zero-extended, CMD and numbers 12 and above giving 0; for RDB, the byte inside the buffer,
0 outside; for RDP, the byte; for RDC, the 24 bits of the pixel, channel 2 uppermost (R20 to R22, R51 to R53, R78). A
pixel outside the grid is assumption 5. -/
def Obligations.ReadsHaveNoSideEffect : Prop :=
  (∀ (s : State) (a : HostAction) (rest : List HostAction), s.script = a :: rest →
    ∀ v : Word,
      ((a = .rd 0 ∧ v = 0#32) ∨ (a = .rd 1 ∧ v = s.err.setWidth 32) ∨ (a = .rd 2 ∧ v = s.errInfo) ∨
        (a = .rd 3 ∧ v = s.rows.setWidth 32) ∨ (a = .rd 4 ∧ v = s.cols.setWidth 32) ∨ (a = .rd 5 ∧ v = s.size) ∨
        (a = .rd 6 ∧ v = s.plen) ∨ (a = .rd 7 ∧ v = s.idx) ∨ (a = .rd 8 ∧ v = s.byte.setWidth 32) ∨
        (a = .rd 9 ∧ v = s.triple.setWidth 32) ∨ (a = .rd 10 ∧ v = s.pix.setWidth 32) ∨
        (a = .rd 11 ∧ v = s.nlen.setWidth 32) ∨ (∃ n, 12 ≤ n ∧ a = .rd n ∧ v = 0#32) ∨
        (∃ j, ∃ h : j < 30, a = .rdb .hdr j ∧ v = s.hdr[j].setWidth 32) ∨
        (∃ j, 30 ≤ j ∧ a = .rdb .hdr j ∧ v = 0#32) ∨
        (∃ j, ∃ h : j < 255, a = .rdb .name j ∧ v = s.name[j].setWidth 32) ∨
        (∃ j, 255 ≤ j ∧ a = .rdb .name j ∧ v = 0#32) ∨
        (∃ k, a = .rdp k ∧ v = (payRead s.pay k).setWidth 32) ∨
        (∃ r c, a = .rdc r c ∧ v.toNat = (pixelCh2 (carRead s.car r c)).toNat * 65536 +
          (pixelCh1 (carRead s.car r c)).toNat * 256 + (pixelCh0 (carRead s.car r c)).toNat)) →
      step s = .next ((s.setScript rest).setReadBack (v :: s.readBack))) ∧
  (∀ (s t : State) (a : HostAction) (rest : List HostAction), s.script = a :: rest →
    ((∃ n, a = .rd n) ∨ (∃ b j, a = .rdb b j) ∨ (∃ k, a = .rdp k) ∨ (∃ r c, a = .rdc r c)) → step s = .next t →
    ∃ v : Word, t = (s.setScript rest).setReadBack (v :: s.readBack) ∧
      step (t.setScript (a :: rest)) = .next (t.setReadBack (v :: v :: s.readBack)))

/-! ### Reset -/

/-- Reset puts every register at 0, so that no error is latched and the carrier has 0 pixels (R41, R210), and leaves CAR
and PAY alone (R43); the state right after reset has every register at 0; in both, every command that would touch the
carrier raises instead (R41). That a reset keeps the rest of the script and the readings is the model's own choice
(assumptions 3 and 4). What HDR and NAME then hold is free (R42): the statement says nothing of it. -/
def Obligations.ResetClearsTheRegisters : Prop :=
  ((∀ n : Nat, readReg State.reset n = 0#32) ∧ State.reset.npix = 0 ∧
    ∀ i ∈ [Instr.ldpix, .stpix, .embed, .extract], ∃ u, exec i State.reset = .next u ∧ u.err ≠ 0#3) ∧
  (∀ (s : State) (rest : List HostAction), s.script = .reset :: rest →
    ∃ t : State, step s = .next t ∧ (∀ n : Nat, readReg t n = 0#32) ∧ t.npix = 0 ∧
      t.err = 0#3 ∧ t.errInfo = 0#32 ∧ t.rows = 0#16 ∧ t.cols = 0#16 ∧ t.size = 0#32 ∧ t.plen = 0#32 ∧ t.idx = 0#32 ∧
      t.byte = 0#8 ∧ t.triple = 0#10 ∧ t.pix = 0#24 ∧ t.nlen = 0#8 ∧ t.car = s.car ∧ t.pay = s.pay ∧
      t.script = rest ∧ t.readBack = s.readBack ∧
      ∀ i ∈ [Instr.ldpix, .stpix, .embed, .extract], ∃ u, exec i t = .next u ∧ u.err ≠ 0#3)

/-! ### The whole machine -/

/-- Every step keeps the invariant: ERR is a legal code (R22), ERRINFO is 0 while ERR is 0 (R23), CAR and PAY keep their
canonical form. -/
def Obligations.EveryStepKeepsTheInvariant : Prop :=
  ∀ s t : State, LegalState s → step s = .next t → LegalState t

/-- The state after reset meets the invariant (R41, R43). -/
def Obligations.ResetMeetsTheInvariant : Prop :=
  LegalState State.reset

/-- Each command writes only the state of its row in the table of R44, whether it succeeds, raises or is gated; no
command writes ROWS or COLS, nor the host's own script and readings. -/
def Obligations.CommandsWriteOnlyTheirRow : Prop :=
  ∀ (i : Instr) (s t : State), exec i s = .next t →
    t.script = s.script ∧ t.readBack = s.readBack ∧ t.draws = s.draws ∧ t.rows = s.rows ∧ t.cols = s.cols ∧
    (i ∉ [.parse, .extract] → t.size = s.size ∧ t.nlen = s.nlen ∧ t.name = s.name) ∧
    (i ≠ .extract → t.plen = s.plen ∧ t.pay = s.pay) ∧
    (i ∉ [.irst, .inext, .embed, .extract] → t.idx = s.idx) ∧
    (i ∉ [.merge, .unpack] → t.byte = s.byte) ∧
    (i ≠ .split → t.triple = s.triple) ∧
    (i ∉ [.pack, .ldpix] → t.pix = s.pix) ∧
    (i ∉ [.compose, .extract] → t.hdr = s.hdr) ∧
    (i ∉ [.stpix, .embed] → t.car = s.car) ∧
    (i ∉ [.ldpix, .stpix, .compose, .parse, .embed, .extract, .clrerr] → t.err = s.err ∧ t.errInfo = s.errInfo)

/-- The block never makes an access outside the carrier: no command changes a pixel with row at least ROWS or column at
least COLS, and what such pixels hold changes nothing else a command leaves (R65, R67). -/
def Obligations.CommandsStayInsideTheCarrier : Prop :=
  ∀ (i : Instr) (s : State) (m : Memory 24),
    (∀ row col : Dim, row.toNat < s.rows.toNat → col.toNat < s.cols.toNat → carRead m row col = carRead s.car row col) →
    ∃ t t' : State, exec i s = .next t ∧ exec i (s.setCar m) = .next t' ∧
      t'.setCar t.car = t ∧
      ∀ row col : Dim,
        (row.toNat < s.rows.toNat ∧ col.toNat < s.cols.toNat → carRead t'.car row col = carRead t.car row col) ∧
        (¬ (row.toNat < s.rows.toNat ∧ col.toNat < s.cols.toNat) →
          carRead t.car row col = carRead s.car row col ∧ carRead t'.car row col = carRead m row col)
end

