-- ==== Sys2Proof/Laws/BitPlane.lean ====
section
/-! SUPPORT. Bits of bytes and channels of pixels: how to compare two bytes bit by bit and two pixels channel by
channel, and what the channels of a built and of a packed pixel are (R31, R116, R117). -/

namespace Sys2Proof.Machine

/-- Two bytes with the same eight bits are equal. -/
theorem byte_ext {a b : Byte} (h0 : a[0] = b[0]) (h1 : a[1] = b[1]) (h2 : a[2] = b[2]) (h3 : a[3] = b[3])
    (h4 : a[4] = b[4]) (h5 : a[5] = b[5]) (h6 : a[6] = b[6]) (h7 : a[7] = b[7]) : a = b := by
  ext i hi
  have : i = 0 ∨ i = 1 ∨ i = 2 ∨ i = 3 ∨ i = 4 ∨ i = 5 ∨ i = 6 ∨ i = 7 := by omega
  rcases this with rfl | rfl | rfl | rfl | rfl | rfl | rfl | rfl <;> assumption

@[simp] theorem pixelCh0_pixelOf (c0 c1 c2 : Byte) : pixelCh0 (pixelOf c0 c1 c2) = c0 := by
  apply byte_ext <;> simp [pixelCh0, pixelOf]

@[simp] theorem pixelCh1_pixelOf (c0 c1 c2 : Byte) : pixelCh1 (pixelOf c0 c1 c2) = c1 := by
  apply byte_ext <;> simp [pixelCh1, pixelOf]

@[simp] theorem pixelCh2_pixelOf (c0 c1 c2 : Byte) : pixelCh2 (pixelOf c0 c1 c2) = c2 := by
  apply byte_ext <;> simp [pixelCh2, pixelOf]

/-- A pixel is its three channels (R31). -/
theorem pixel_ext {p q : Pixel} (h0 : pixelCh0 p = pixelCh0 q) (h1 : pixelCh1 p = pixelCh1 q)
    (h2 : pixelCh2 p = pixelCh2 q) : p = q := by
  apply BitVec.eq_of_toNat_eq
  have h0 := congrArg BitVec.toNat h0
  have h1 := congrArg BitVec.toNat h1
  have h2 := congrArg BitVec.toNat h2
  simp [pixelCh0, pixelCh1, pixelCh2, Nat.shiftRight_eq_div_pow] at h0 h1 h2
  omega

@[simp] theorem pixelCh0_packPixel (p : Pixel) (n : Byte) :
    pixelCh0 (packPixel p n) = packChannel 0 (pixelCh0 p) (group0 n) := by simp [packPixel]

@[simp] theorem pixelCh1_packPixel (p : Pixel) (n : Byte) :
    pixelCh1 (packPixel p n) = packChannel 1 (pixelCh1 p) (group1 n) := by simp [packPixel]

@[simp] theorem pixelCh2_packPixel (p : Pixel) (n : Byte) :
    pixelCh2 (packPixel p n) = packChannel 2 (pixelCh2 p) (group2 n) := by simp [packPixel]

/-- `unpack` with its masks evaluated (R117). -/
theorem unpackPixel_masks (p : Pixel) :
    unpackPixel p = mergeGroups (pixelCh0 p &&& 7#8) (pixelCh1 p &&& 7#8) (pixelCh2 p &&& 3#8) := by
  have h : (1#8 <<< freeBits 0) - 1#8 = 7#8 ∧ (1#8 <<< freeBits 1) - 1#8 = 7#8 ∧
      (1#8 <<< freeBits 2) - 1#8 = 3#8 := by decide
  simp only [unpackPixel, unpackChannel, h]

end Sys2Proof.Machine
end

