-- ==== Sys2Proof/Laws/Codec.lean ====
section
/-! SUPPORT. What the pure functions of the header codec answer: one lemma per case of undec8 (R92), strip_us (R94)
and parse_hdr (R96). -/

namespace Sys2Proof.Machine

theorem isDigit_iff (b : Byte) : isDigit b = true ↔ 0x30 ≤ b.toNat ∧ b.toNat ≤ 0x39 := by
  simp [isDigit, BitVec.le_def]

/-! ### undec8 -/

/-- The first byte that is no digit is reported (R92). -/
theorem undec8_of_bad {d : Nat → Byte} {k : Nat} (hk : k < 8) (h : ∀ j < k, isDigit (d j) = true)
    (hb : isDigit (d k) = false) : undec8 d = .error k := by
  have : (List.range 8).find? (fun k => !isDigit (d k)) = some k := by
    rw [List.find?_range_eq_some]
    exact ⟨by simp [hb], by simpa using hk, fun j hj => by simp [h j hj]⟩
  simp [undec8, this]

theorem sum_range_eight (x w : Nat → Nat) : ((List.range 8).map fun k => x k * w k).sum =
    x 0 * w 0 + x 1 * w 1 + x 2 * w 2 + x 3 * w 3 + x 4 * w 4 + x 5 * w 5 + x 6 * w 6 + x 7 * w 7 := by
  simp [List.range_succ, Nat.add_assoc]

/-- The weights of the size field, written out (R92). -/
theorem sizeFieldSum (x : Nat → Nat) : ((List.range 8).map fun k => x k * 10 ^ (7 - k)).sum =
    x 0 * 10000000 + x 1 * 1000000 + x 2 * 100000 + x 3 * 10000 + x 4 * 1000 + x 5 * 100 + x 6 * 10 + x 7 := by
  have e0 : 10 ^ (7 - 0) = 10000000 := by norm_num
  have e1 : 10 ^ (7 - 1) = 1000000 := by norm_num
  have e2 : 10 ^ (7 - 2) = 100000 := by norm_num
  have e3 : 10 ^ (7 - 3) = 10000 := by norm_num
  have e4 : 10 ^ (7 - 4) = 1000 := by norm_num
  have e5 : 10 ^ (7 - 5) = 100 := by norm_num
  have e6 : 10 ^ (7 - 6) = 10 := by norm_num
  have e7 : 10 ^ (7 - 7) = 1 := by norm_num
  rw [sum_range_eight x fun k => 10 ^ (7 - k), e0, e1, e2, e3, e4, e5, e6, e7, Nat.mul_one]

/-- Eight digits state a number (R92). -/
theorem undec8_of_digits {d : Nat → Byte} (h : ∀ j < 8, isDigit (d j) = true) :
    undec8 d = .ok (((d 0).toNat - 0x30) * 10000000 + ((d 1).toNat - 0x30) * 1000000 + ((d 2).toNat - 0x30) * 100000 +
      ((d 3).toNat - 0x30) * 10000 + ((d 4).toNat - 0x30) * 1000 + ((d 5).toNat - 0x30) * 100 +
      ((d 6).toNat - 0x30) * 10 + ((d 7).toNat - 0x30)) := by
  have hn : (List.range 8).find? (fun k => !isDigit (d k)) = none := by
    simp only [List.find?_eq_none, List.mem_range, Bool.not_eq_true]
    exact fun j hj => by simp [h j hj]
  simp only [undec8, hn, sizeFieldSum fun k => (d k).toNat - 0x30]

/-- `undec8` answers a number only for eight digits. -/
theorem digits_of_undec8_ok {d : Nat → Byte} {v : Nat} (h : undec8 d = .ok v) : ∀ j < 8, isDigit (d j) = true := by
  intro j hj
  unfold undec8 at h
  split at h
  · cases h
  · next hn =>
    have := List.find?_eq_none.mp hn j (by simpa using hj)
    simpa using this

/-! ### strip_us -/

theorem lastKept_eq {f : Nat → Byte} {b : Nat} (hb : b < 20) (h : f b ≠ Config.underscore)
    (hr : ∀ j, b < j → j < 20 → f j = Config.underscore) : lastKept f = some b := by
  have hsplit : (List.range 20).reverse = ((List.range' (b + 1) (19 - b)).reverse ++ [b]) ++ (List.range b).reverse := by
    have : List.range 20 = List.range b ++ ([b] ++ List.range' (b + 1) (19 - b)) := by
      rw [List.range_eq_range', List.range_eq_range', ← List.range'_one, List.range'_append_1,
        show 1 + (19 - b) = 20 - b by omega]
      have := List.range'_append_1 (s := 0) (m := b) (n := 20 - b)
      rw [Nat.zero_add, show b + (20 - b) = 20 by omega] at this
      exact this.symm
    rw [this]
    simp
  have hskip : (List.range' (b + 1) (19 - b)).reverse.find? (fun j => f j != Config.underscore) = none := by
    simp only [List.find?_eq_none, List.mem_reverse, List.mem_range'_1]
    intro j hj
    simp [hr j (by omega) (by omega)]
  have hb' : (f b != Config.underscore) = true := by simpa using h
  unfold lastKept
  rw [hsplit, List.find?_append, List.find?_append, hskip]
  simp [hb']

theorem firstKept_eq {f : Nat → Byte} {a : Nat} (ha : a < 20) (h : f a ≠ Config.underscore)
    (hl : ∀ j < a, f j = Config.underscore) : firstKept f = some a := by
  unfold firstKept
  rw [List.find?_range_eq_some]
  exact ⟨by simpa using h, by simpa using ha, fun j hj => by simp [hl j hj]⟩

/-- A field whose kept bytes run from `a` to `a + n - 1` (R94). -/
theorem stripUs_of_kept {f : Nat → Byte} {a n : Nat} (hn : 0 < n) (han : a + n ≤ 20)
    (hl : ∀ j < a, f j = Config.underscore) (hr : ∀ j, a + n ≤ j → j < 20 → f j = Config.underscore)
    (ha : f a ≠ Config.underscore) (hb : f (a + n - 1) ≠ Config.underscore) :
    stripUs f = (List.range n).map fun j => f (a + j) := by
  have h1 := firstKept_eq (f := f) (a := a) (by omega) ha hl
  have h2 := lastKept_eq (f := f) (b := a + n - 1) (by omega) hb fun j h h' => hr j (by omega) h'
  have h3 : a + n - 1 - a + 1 = n := by omega
  simp only [stripUs, h1, h2, h3]

/-- A field of underscores is stripped to the empty name (R94). -/
theorem stripUs_of_none {f : Nat → Byte} (h : ∀ j < 20, f j = Config.underscore) : stripUs f = [] := by
  have : firstKept f = none := by
    simp only [firstKept, List.find?_eq_none, List.mem_range]
    exact fun j hj => by simp [h j hj]
  simp only [stripUs, this]

/-- Every field is one of the two (R94): only underscores, or with a first and a last byte that is kept. -/
theorem stripUs_cases (f : Nat → Byte) :
    ((∀ j < 20, f j = Config.underscore) ∧ stripUs f = []) ∨
    ∃ a n, 0 < n ∧ a + n ≤ 20 ∧ (∀ j < a, f j = Config.underscore) ∧
      (∀ j, a + n ≤ j → j < 20 → f j = Config.underscore) ∧ f a ≠ Config.underscore ∧
      f (a + n - 1) ≠ Config.underscore ∧ stripUs f = (List.range n).map fun j => f (a + j) := by
  by_cases h : ∀ j < 20, f j = Config.underscore
  · exact .inl ⟨h, stripUs_of_none h⟩
  · right
    have hex : ∃ j, j < 20 ∧ f j ≠ Config.underscore := by
      by_contra hc
      exact h fun j hj => by_contra fun hf => hc ⟨j, hj, hf⟩
    have hmin := Nat.find_spec hex
    have hmin' := fun j (hj : j < Nat.find hex) => Nat.find_min hex hj
    have hexr : ∃ j, j < 20 ∧ f (19 - j) ≠ Config.underscore :=
      ⟨19 - Nat.find hex, by omega, by rw [show 19 - (19 - Nat.find hex) = Nat.find hex by omega]; exact hmin.2⟩
    have hmax := Nat.find_spec hexr
    have hmax' := fun j (hj : j < Nat.find hexr) => Nat.find_min hexr hj
    have hle : Nat.find hex ≤ 19 - Nat.find hexr := Nat.find_min' hex ⟨by omega, hmax.2⟩
    have hl : ∀ j < Nat.find hex, f j = Config.underscore := fun j hj =>
      by_contra fun hf => hmin' j hj ⟨by omega, hf⟩
    have hr : ∀ j, 19 - Nat.find hexr < j → j < 20 → f j = Config.underscore := fun j h1 h2 =>
      by_contra fun hf => hmax' (19 - j) (by omega) ⟨by omega, by rwa [show 19 - (19 - j) = j by omega]⟩
    generalize Nat.find hex = a at *
    generalize hb : 19 - Nat.find hexr = b at *
    have hkept : f (a + (b - a + 1) - 1) ≠ Config.underscore := by
      rw [show a + (b - a + 1) - 1 = b by omega]; exact hmax.2
    exact ⟨a, b - a + 1, by omega, by omega, hl, fun j h1 h2 => hr j (by omega) h2, hmin.2, hkept,
      stripUs_of_kept (by omega) (by omega) hl (fun j h1 h2 => hr j (by omega) h2) hmin.2 hkept⟩

theorem stripUs_length_le (f : Nat → Byte) : (stripUs f).length ≤ 20 := by
  rcases stripUs_cases f with ⟨_, h⟩ | ⟨a, n, _, h1, _, _, _, _, h⟩ <;> rw [h]
  · simp
  · simp; omega

/-! ### parse_hdr -/

theorem parseHdr_of_start {h : Nat → Byte} (h0 : h 0 ≠ Config.startMark) : parseHdr h = .error 0 := by
  simp [parseHdr, h0]

theorem parseHdr_of_end {h : Nat → Byte} (h0 : h 0 = Config.startMark) (h29 : h 29 ≠ Config.endMark) :
    parseHdr h = .error 29 := by
  simp [parseHdr, h0, h29]

theorem parseHdr_of_marks {h : Nat → Byte} (h0 : h 0 = Config.startMark) (h29 : h 29 = Config.endMark) :
    parseHdr h =
      match undec8 (fun k => h (1 + k)) with
      | .error k => .error (1 + k)
      | .ok v => .ok (v, stripUs fun j => h (9 + j)) :=
  (if_neg fun hn => hn h0).trans (if_neg fun hn => hn h29)

/-- What a header that parses is (R96). -/
theorem parseHdr_ok {h : Nat → Byte} {v : Nat} {name : List Byte} (hp : parseHdr h = .ok (v, name)) :
    h 0 = Config.startMark ∧ h 29 = Config.endMark ∧ undec8 (fun k => h (1 + k)) = .ok v ∧
      name = stripUs fun j => h (9 + j) := by
  unfold parseHdr at hp
  split at hp
  · cases hp
  · next h0 =>
    split at hp
    · cases hp
    · next h29 =>
      split at hp
      · cases hp
      · next hv =>
        cases hp
        exact ⟨by simpa using h0, by simpa using h29, hv, rfl⟩

/-- Only the 30 bytes of the header count. -/
theorem parseHdr_congr {h h' : Nat → Byte} (he : ∀ j < 30, h j = h' j) : parseHdr h = parseHdr h' := by
  have hu : undec8 (fun k => h (1 + k)) = undec8 (fun k => h' (1 + k)) := by
    simp only [undec8, show List.range 8 = [0, 1, 2, 3, 4, 5, 6, 7] from rfl, List.find?, List.map_cons, List.map_nil,
      he (1 + 0) (by omega), he (1 + 1) (by omega), he (1 + 2) (by omega), he (1 + 3) (by omega), he (1 + 4) (by omega),
      he (1 + 5) (by omega), he (1 + 6) (by omega), he (1 + 7) (by omega)]
  have hs : (stripUs fun j => h (9 + j)) = stripUs fun j => h' (9 + j) := by
    rcases stripUs_cases fun j => h (9 + j) with ⟨h1, h2⟩ | ⟨a, n, h1, h2, h3, h4, h5, h6, h7⟩
    · rw [h2, stripUs_of_none fun j hj => by rw [← he _ (by omega)]; exact h1 j hj]
    · rw [h7, stripUs_of_kept h1 h2 (fun j hj => by rw [← he _ (by omega)]; exact h3 j hj)
        (fun j hj hj' => by rw [← he _ (by omega)]; exact h4 j hj hj') (by rw [← he _ (by omega)]; exact h5)
        (by rw [← he _ (by omega)]; exact h6)]
      exact List.map_congr_left fun j hj => he _ (by have := List.mem_range.mp hj; omega)
  simp only [parseHdr, he 0 (by omega), he 29 (by omega), hu, hs]

/-! ### The header COMPOSE builds -/

theorem composedByte_digit (size : Nat) (s : Nat → Byte) (L : Nat) {k : Nat} (hk : k < 8) :
    composedByte size s L (1 + k) = dec8 size k := by
  unfold composedByte
  rw [if_neg (by omega), if_pos (by omega), Nat.add_sub_cancel_left]

theorem composedByte_name (size : Nat) (s : Nat → Byte) (L : Nat) {j : Nat} (hj : j < 20) :
    composedByte size s L (9 + j) = name20 s L j := by
  unfold composedByte
  rw [if_neg (by omega), if_neg (by omega), if_pos (by omega), Nat.add_sub_cancel_left]

theorem dec8_toNat (v : Nat) (k : Nat) : (dec8 v k).toNat = 0x30 + v / 10 ^ (7 - k) % 10 := by
  have : v / 10 ^ (7 - k) % 10 < 10 := Nat.mod_lt _ (by omega)
  simp only [dec8, BitVec.toNat_ofNat]
  omega

theorem dec8_isDigit (v k : Nat) : isDigit (dec8 v k) = true := by
  rw [isDigit_iff, dec8_toNat]
  have : v / 10 ^ (7 - k) % 10 < 10 := Nat.mod_lt _ (by omega)
  omega

/-! ### Delivering a header -/

theorem bufRead_bufStore_of_lt {n : Nat} (b : Vector Byte n) {l : List Byte} {j : Nat} (hj : j < l.length)
    (hn : l.length ≤ n) : l[j]? = some (bufRead (bufStore b l) j) := by
  rw [bufRead_bufStore, if_pos ⟨by omega, hj⟩]
  simp [hj]

theorem bufRead_bufStore_of_le {n : Nat} (b : Vector Byte n) {l : List Byte} {j : Nat} (hj : l.length ≤ j) :
    bufRead (bufStore b l) j = bufRead b j := by
  rw [bufRead_bufStore, if_neg (by omega)]

end Sys2Proof.Machine
end

