-- ==== Sys2Proof/Laws/PerInstr.lean ====
section
/-! SUPPORT. The family `Encoding` of statements made per instruction: what the encoding of each command is (R70 to
R74, R76), one lemma per constructor of Instr. -/

namespace Sys2Proof.Laws.Encoding

/-- A command is well formed; its word has ZERO = 0 and an assigned opcode, and no other command has that opcode;
the decoder reads the command from the word, also through the opcode table's numbering. -/
def Statement (i : Instr) : Prop :=
  i.wellFormed = true ∧ zeroField (encode i) = 0#28 ∧ wordWellFormed (encode i) = true ∧
    decode (encode i) = some i ∧ decodeTableWord 32 (encode i).toNat = some i ∧
    ∀ n < 16, ofOpcode n = some i ↔ n = (opField (encode i)).toNat

theorem nop : Statement .nop := by unfold Statement; decide
theorem split : Statement .split := by unfold Statement; decide
theorem merge : Statement .merge := by unfold Statement; decide
theorem pack : Statement .pack := by unfold Statement; decide
theorem unpack : Statement .unpack := by unfold Statement; decide
theorem ldpix : Statement .ldpix := by unfold Statement; decide
theorem stpix : Statement .stpix := by unfold Statement; decide
theorem inext : Statement .inext := by unfold Statement; decide
theorem compose : Statement .compose := by unfold Statement; decide
theorem parse : Statement .parse := by unfold Statement; decide
theorem embed : Statement .embed := by unfold Statement; decide
theorem extract : Statement .extract := by unfold Statement; decide
theorem irst : Statement .irst := by unfold Statement; decide
theorem clrerr : Statement .clrerr := by unfold Statement; decide

end Sys2Proof.Laws.Encoding
end

