-- ==== Sys2Proof/Laws/Step.lean ====
section
/-! SUPPORT. A step and a run, line by line of the script, and the fields that raising an error and delivering a
header keep. -/

namespace Sys2Proof.Machine

theorem State.setScript_setScript (s : State) (u v : List HostAction) : (s.setScript u).setScript v = s.setScript v :=
  rfl

theorem State.setScript_self (s : State) : s.setScript s.script = s := rfl

/-- A step carries out the next line (R78). -/
theorem step_cons {s : State} {a : HostAction} {rest : List HostAction} (h : s.script = a :: rest) :
    step s = doAction a (s.setScript rest) := by
  simp [step, nextLine, h]

/-- A line with a next state is one step of a run. -/
theorem run_cons {s t : State} {a : HostAction} {rest : List HostAction} (n : Nat)
    (h : doAction a (s.setScript rest) = .next t) :
    core.run (n + 1) (s.setScript (a :: rest)) = core.run n t := by
  have : core.step (s.setScript (a :: rest)) = .next t := by
    show step (s.setScript (a :: rest)) = .next t
    rw [step_cons (State.setScript_script s _), State.setScript_setScript, h]
  simp only [Host.Core.run, this]

/-- A run of `n` steps and then of `m`. -/
theorem run_add (n m : Nat) {s t : State} (h : core.run n s = .next t) : core.run (n + m) s = core.run m t := by
  induction n generalizing s with
  | zero =>
    cases h
    rw [Nat.zero_add]
  | succ n ih =>
    rw [Nat.add_right_comm]
    simp only [Host.Core.run] at h ⊢
    split at h
    · exact ih h
    · cases h
    · cases h

section

variable (e : ErrorKind) (w : Word) (s : State)

@[simp] theorem raise_script : (raise e w s).script = s.script := by unfold raise; split <;> rfl
@[simp] theorem raise_readBack : (raise e w s).readBack = s.readBack := by unfold raise; split <;> rfl
@[simp] theorem raise_draws : (raise e w s).draws = s.draws := by unfold raise; split <;> rfl
@[simp] theorem raise_rows : (raise e w s).rows = s.rows := by unfold raise; split <;> rfl
@[simp] theorem raise_cols : (raise e w s).cols = s.cols := by unfold raise; split <;> rfl
@[simp] theorem raise_size : (raise e w s).size = s.size := by unfold raise; split <;> rfl
@[simp] theorem raise_plen : (raise e w s).plen = s.plen := by unfold raise; split <;> rfl
@[simp] theorem raise_idx : (raise e w s).idx = s.idx := by unfold raise; split <;> rfl
@[simp] theorem raise_byte : (raise e w s).byte = s.byte := by unfold raise; split <;> rfl
@[simp] theorem raise_triple : (raise e w s).triple = s.triple := by unfold raise; split <;> rfl
@[simp] theorem raise_pix : (raise e w s).pix = s.pix := by unfold raise; split <;> rfl
@[simp] theorem raise_nlen : (raise e w s).nlen = s.nlen := by unfold raise; split <;> rfl
@[simp] theorem raise_hdr : (raise e w s).hdr = s.hdr := by unfold raise; split <;> rfl
@[simp] theorem raise_name : (raise e w s).name = s.name := by unfold raise; split <;> rfl
@[simp] theorem raise_car : (raise e w s).car = s.car := by unfold raise; split <;> rfl
@[simp] theorem raise_pay : (raise e w s).pay = s.pay := by unfold raise; split <;> rfl

end

section

variable (v : Nat) (l : List Byte) (s : State)

@[simp] theorem deliverHeader_script : (deliverHeader v l s).script = s.script := rfl
@[simp] theorem deliverHeader_readBack : (deliverHeader v l s).readBack = s.readBack := rfl
@[simp] theorem deliverHeader_draws : (deliverHeader v l s).draws = s.draws := rfl
@[simp] theorem deliverHeader_err : (deliverHeader v l s).err = s.err := rfl
@[simp] theorem deliverHeader_errInfo : (deliverHeader v l s).errInfo = s.errInfo := rfl
@[simp] theorem deliverHeader_rows : (deliverHeader v l s).rows = s.rows := rfl
@[simp] theorem deliverHeader_cols : (deliverHeader v l s).cols = s.cols := rfl
@[simp] theorem deliverHeader_size : (deliverHeader v l s).size = BitVec.ofNat 32 v := rfl
@[simp] theorem deliverHeader_plen : (deliverHeader v l s).plen = s.plen := rfl
@[simp] theorem deliverHeader_idx : (deliverHeader v l s).idx = s.idx := rfl
@[simp] theorem deliverHeader_byte : (deliverHeader v l s).byte = s.byte := rfl
@[simp] theorem deliverHeader_triple : (deliverHeader v l s).triple = s.triple := rfl
@[simp] theorem deliverHeader_pix : (deliverHeader v l s).pix = s.pix := rfl
@[simp] theorem deliverHeader_nlen : (deliverHeader v l s).nlen = BitVec.ofNat 8 l.length := rfl
@[simp] theorem deliverHeader_hdr : (deliverHeader v l s).hdr = s.hdr := rfl
@[simp] theorem deliverHeader_name : (deliverHeader v l s).name = bufStore s.name l := rfl
@[simp] theorem deliverHeader_car : (deliverHeader v l s).car = s.car := rfl
@[simp] theorem deliverHeader_pay : (deliverHeader v l s).pay = s.pay := rfl

end

end Sys2Proof.Machine
end

