-- ==== Sys2Proof/Laws/Script.lean ====
section
/-! SUPPORT. The host script's short forms, said once: what the lines of a command, of GETBYTE and of PUTBYTE (R79)
and the lines that write the last reading (R156) do, with no error latched and the pixel in range, with no error
latched and the pixel out of range, and with an error latched. -/

namespace Sys2Proof.Machine

theorem doAction_command (i : Instr) (s : State) : doAction (command i) s = exec i s := by
  cases i <;> rfl

/-- A command line is one step of a run. -/
theorem run_command {i : Instr} {s t : State} {rest : List HostAction} (n : Nat)
    (h : exec i (s.setScript rest) = .next t) :
    core.run (n + 1) (s.setScript (command i :: rest)) = core.run n t :=
  run_cons n ((doAction_command i _).trans h)

/-! ### The commands of the groups, with no error latched -/

section

variable {s : State} (h : s.err = 0#3)

include h

theorem exec_ldpix_in_range (hr : s.idx.toNat < s.npix) :
    exec .ldpix s = .next (s.setPix (pixelAt s.cols s.car s.idx.toNat)) := by
  simp [exec, execLdpix, whenClear_of_clear h, loadPixel, Nat.not_le.mpr hr]

theorem exec_ldpix_out_of_range (hr : s.npix ≤ s.idx.toNat) : exec .ldpix s = .next (s.setLatch 4#3 s.idx) := by
  simp [exec, execLdpix, whenClear_of_clear h, loadPixel, hr, raise_of_clear h, errorCode]

theorem exec_stpix_in_range (hr : s.idx.toNat < s.npix) :
    exec .stpix s = .next (s.setCar (setPixelAt s.cols s.car s.idx.toNat s.pix)) := by
  simp [exec, execStpix, whenClear_of_clear h, storePixel, Nat.not_le.mpr hr]

theorem exec_pack_of_clear : exec .pack s = .next (s.setPix (packPixel s.pix s.byte)) := by
  simp [exec, execPack, whenClear_of_clear h]

theorem exec_unpack_of_clear : exec .unpack s = .next (s.setByte (unpackPixel s.pix)) := by
  simp [exec, execUnpack, whenClear_of_clear h]

theorem exec_inext_of_clear : exec .inext s = .next (s.setIdx (s.idx + 1#32)) := by
  simp [exec, execInext, whenClear_of_clear h]

end

/-! ### The groups -/

section

variable {s : State} (rest : List HostAction)

/-- GETBYTE with the pixel in range: the hidden byte in BYTE, the pixel in PIX, IDX one further (R119, R133, R134). -/
theorem run_getByte_in_range (h : s.err = 0#3) (hr : s.idx.toNat < s.npix) :
    core.run 3 (s.setScript (getByte ++ rest)) =
      .next ((((s.setPix (pixelAt s.cols s.car s.idx.toNat)).setByte
        (unpackPixel (pixelAt s.cols s.car s.idx.toNat))).setIdx (s.idx + 1#32)).setScript rest) := by
  simp only [getByte, List.cons_append, List.nil_append]
  rw [run_command 2 (exec_ldpix_in_range (by exact h) (by exact hr))]
  show core.run 2 ((s.setPix _).setScript (command .unpack :: command .inext :: rest)) = _
  rw [run_command 1 (exec_unpack_of_clear (by exact h))]
  show core.run 1 (((s.setPix _).setByte _).setScript (command .inext :: rest)) = _
  rw [run_command 0 (exec_inext_of_clear (by exact h))]
  rfl

/-- GETBYTE with an error latched does nothing (R188). -/
theorem run_getByte_latched (h : s.err ≠ 0#3) :
    core.run 3 (s.setScript (getByte ++ rest)) = .next (s.setScript rest) := by
  simp only [getByte, List.cons_append, List.nil_append]
  rw [run_command 2 (congrArg _ (whenClear_of_latched (by exact h))),
    run_command 1 (congrArg _ (whenClear_of_latched (by exact h))),
    run_command 0 (congrArg _ (whenClear_of_latched (by exact h)))]
  rfl

/-- GETBYTE with the pixel out of range: LDPIX raises and the rest does nothing (R134, R188). -/
theorem run_getByte_out_of_range (h : s.err = 0#3) (hr : s.npix ≤ s.idx.toNat) :
    core.run 3 (s.setScript (getByte ++ rest)) = .next ((s.setLatch 4#3 s.idx).setScript rest) := by
  simp only [getByte, List.cons_append, List.nil_append]
  rw [run_command 2 (exec_ldpix_out_of_range (by exact h) (by exact hr))]
  have hl : (s.setLatch 4#3 s.idx).err ≠ 0#3 := by simp
  show core.run 2 ((s.setLatch 4#3 s.idx).setScript (command .unpack :: command .inext :: rest)) = _
  rw [run_command 1 (congrArg _ (whenClear_of_latched (by exact hl))),
    run_command 0 (congrArg _ (whenClear_of_latched (by exact hl)))]
  rfl

/-- PUTBYTE with the pixel in range: BYTE packed into the pixel of IDX, which PIX then holds, IDX one further (R133,
R136). -/
theorem run_putByte_in_range (h : s.err = 0#3) (hr : s.idx.toNat < s.npix) :
    core.run 4 (s.setScript (putByte ++ rest)) =
      .next ((((s.setPix (packPixel (pixelAt s.cols s.car s.idx.toNat) s.byte)).setCar
        (setPixelAt s.cols s.car s.idx.toNat (packPixel (pixelAt s.cols s.car s.idx.toNat) s.byte))).setIdx
          (s.idx + 1#32)).setScript rest) := by
  simp only [putByte, List.cons_append, List.nil_append]
  rw [run_command 3 (exec_ldpix_in_range (by exact h) (by exact hr))]
  show core.run 3 ((s.setPix _).setScript (command .pack :: command .stpix :: command .inext :: rest)) = _
  rw [run_command 2 (exec_pack_of_clear (by exact h))]
  show core.run 2 ((s.setPix _).setScript (command .stpix :: command .inext :: rest)) = _
  rw [run_command 1 (exec_stpix_in_range (by exact h) (by exact hr))]
  show core.run 1 (((s.setPix _).setCar _).setScript (command .inext :: rest)) = _
  rw [run_command 0 (exec_inext_of_clear (by exact h))]
  rfl

/-- PUTBYTE with an error latched does nothing (R188). -/
theorem run_putByte_latched (h : s.err ≠ 0#3) :
    core.run 4 (s.setScript (putByte ++ rest)) = .next (s.setScript rest) := by
  simp only [putByte, List.cons_append, List.nil_append]
  rw [run_command 3 (congrArg _ (whenClear_of_latched (by exact h))),
    run_command 2 (congrArg _ (whenClear_of_latched (by exact h))),
    run_command 1 (congrArg _ (whenClear_of_latched (by exact h))),
    run_command 0 (congrArg _ (whenClear_of_latched (by exact h)))]
  rfl

/-- PUTBYTE with the pixel out of range: LDPIX raises and the rest does nothing (R134, R188). -/
theorem run_putByte_out_of_range (h : s.err = 0#3) (hr : s.npix ≤ s.idx.toNat) :
    core.run 4 (s.setScript (putByte ++ rest)) = .next ((s.setLatch 4#3 s.idx).setScript rest) := by
  simp only [putByte, List.cons_append, List.nil_append]
  rw [run_command 3 (exec_ldpix_out_of_range (by exact h) (by exact hr))]
  have hl : (s.setLatch 4#3 s.idx).err ≠ 0#3 := by simp
  show core.run 3 ((s.setLatch 4#3 s.idx).setScript (command .pack :: command .stpix :: command .inext :: rest)) = _
  rw [run_command 2 (congrArg _ (whenClear_of_latched (by exact hl))),
    run_command 1 (congrArg _ (whenClear_of_latched (by exact hl))),
    run_command 0 (congrArg _ (whenClear_of_latched (by exact hl)))]
  rfl

end

/-! ### The lines that write the last reading -/

/-- The line that writes the byte just read to a buffer (R156). -/
theorem doAction_wrbRead {s : State} {b : Byte} {r : List Word} (h : s.readBack = b.setWidth 32 :: r) (u : Buffer)
    (j : Nat) : doAction (.wrbRead u j) s = .next (writeBuffer s u j b) := by
  simp only [doAction, withLastRead_of_some h]
  rw [BitVec.setWidth_setWidth_of_le _ (by decide), BitVec.setWidth_eq]

/-- The line that writes the byte just read to PAY (R156). -/
theorem doAction_wrpRead {s : State} {b : Byte} {r : List Word} (h : s.readBack = b.setWidth 32 :: r) (k : Word) :
    doAction (.wrpRead k) s = .next (s.setPay (payWrite s.pay k b)) := by
  simp only [doAction, withLastRead_of_some h]
  rw [BitVec.setWidth_setWidth_of_le _ (by decide), BitVec.setWidth_eq]

end Sys2Proof.Machine
end

