-- ==== Sys2Proof/Tests/Slice0.lean ====
section
/-! SUPPORT. The model's own tests. Every expected value is written out from the spec: the words from 30_encoding.md
R70 and R72, the results from 95_test_vectors.md (the section is named at each test). Each theorem is about one
step. The witnesses at the end show, for each statement of Certificates/Slice0/Obligations.lean that has hypotheses, a
state and operands that meet them. -/

namespace Sys2Proof.Tests

open Sys2Proof Sys2Proof.Machine

/-! ### Helpers -/

/-- The state after reset with chosen buffer contents, so that nothing of it is a free value. -/
def blank : State := { State.reset with hdr := Vector.replicate 30 0x11#8, name := Vector.replicate 255 0x22#8 }

/-- The outcome is a next state of which `p` holds. -/
def nextHas (r : Result) (p : State → Bool) : Bool :=
  match r with
  | .next t => p t
  | .fault _ => false
  | .refused _ => false

/-- The bytes of a text (93_implementation_defined.md G1, G2). -/
def bytesOf (l : List Char) : List Byte := l.map fun c => BitVec.ofNat 8 c.toNat

/-- HDR holds the 30 characters. -/
def withHdr (s : State) (l : List Char) : State := s.setHdr (bufStore s.hdr (bytesOf l))

/-- NAME and NLEN hold the text. -/
def withName (s : State) (l : List Char) : State :=
  (s.setName (bufStore s.name (bytesOf l))).setNlen (BitVec.ofNat 8 l.length)

/-- A carrier grid of ROWS by COLS pixels at index IDX. -/
def grid (rows cols : Dim) (idx : Word) : State := ((blank.setRows rows).setCols cols).setIdx idx

/-! ### Well-formedness: the ill-formed words are refused -/

theorem test_wellFormed_refuses_zero_bits : wordWellFormed 0x00000010#32 = false ∧
    wordWellFormed 0x80000001#32 = false ∧ zeroBitsClear 0x00000010#32 = false := by decide

theorem test_wellFormed_refuses_reserved : wordWellFormed 0x0000000D#32 = false ∧
    wordWellFormed 0x0000000E#32 = false ∧ opcodeAssigned 0x0000000D#32 = false ∧
    opcodeAssigned 0x0000000E#32 = false := by decide

theorem test_wellFormed_accepts : wordWellFormed 0x0000000F#32 = true ∧ wordWellFormed 0x0000000C#32 = true ∧
    Instr.clrerr.wellFormed = true := by decide

/-! ### Decoding: each word bit by bit, ZERO then OP (R70, R72) -/

theorem test_decode_control : decode 0b0000000000000000000000000000_0000#32 = some .nop ∧
    decode 0b0000000000000000000000000000_1111#32 = some .clrerr := by decide

theorem test_decode_bitPlane : decode 0b0000000000000000000000000000_0001#32 = some .split ∧
    decode 0b0000000000000000000000000000_0010#32 = some .merge ∧
    decode 0b0000000000000000000000000000_0011#32 = some .pack ∧
    decode 0b0000000000000000000000000000_0100#32 = some .unpack := by decide

theorem test_decode_iterator : decode 0b0000000000000000000000000000_0101#32 = some .ldpix ∧
    decode 0b0000000000000000000000000000_0110#32 = some .stpix ∧
    decode 0b0000000000000000000000000000_0111#32 = some .inext ∧
    decode 0b0000000000000000000000000000_1100#32 = some .irst := by decide

theorem test_decode_header : decode 0b0000000000000000000000000000_1000#32 = some .compose ∧
    decode 0b0000000000000000000000000000_1001#32 = some .parse := by decide

theorem test_decode_stream : decode 0b0000000000000000000000000000_1010#32 = some .embed ∧
    decode 0b0000000000000000000000000000_1011#32 = some .extract := by decide

/-- R73, R74; section 2.9: bits 31:4 are checked before the opcode. -/
theorem test_decode_refuses : decode 0x0000000D#32 = none ∧ decode 0x0000000E#32 = none ∧
    decode 0x00000011#32 = none ∧ decode 0x80000001#32 = none ∧ decode 0xFFFFFFFF#32 = none ∧
    decodeTableWord 32 0xD = none ∧ decodeTableWord 64 0x100000001 = none := by decide

/-! ### The control commands and the latch (sections 2.9, 2.10) -/

/-- `NOP: nothing changes`. -/
theorem test_nop : nextHas (step ((grid 3 7 20).withFetchWord 32 0x0))
    (fun t => t.idx == 20 && t.err == 0 && t.rows == 3 && t.script.isEmpty) = true := by decide +kernel

/-- ERR = 1, ERRINFO = 100000000 before: SPLIT does not run, no IllegalCommand replaces the error. -/
theorem test_latch_gates : nextHas (step (((blank.setByte 0xFF).setLatch 1 100000000).withFetchWord 32 0x1))
      (fun t => t.triple == 0 && t.err == 1 && t.errInfo == 100000000) = true ∧
    nextHas (step ((blank.setLatch 1 100000000).withFetchWord 32 0x10))
      (fun t => t.err == 1 && t.errInfo == 100000000) = true := by decide +kernel

/-- 0x80000001 with ERR = 0: ERR = 5, ERRINFO = the word. -/
theorem test_illegal : nextHas (step (blank.withFetchWord 32 0x80000001))
    (fun t => t.err == 5 && t.errInfo == 0x80000001) = true := by decide +kernel

theorem test_clrerr : nextHas (step ((blank.setLatch 1 100000000).withFetchWord 32 0xF))
    (fun t => t.err == 0 && t.errInfo == 0) = true := by decide +kernel

/-! ### SPLIT, MERGE, PACK, UNPACK (sections 2.1 to 2.3) -/

/-- BYTE = 0xAA gives G0 = 5, G1 = 2, G2 = 2; TRIPLE = 0x0AA whatever it held. -/
theorem test_split : nextHas (execSplit ((blank.setByte 0xAA).setTriple 0x3FF))
    (fun t => t.triple == 0x0AA && tripleG0 t.triple == 5 && tripleG1 t.triple == 2 && tripleG2 t.triple == 2 &&
      t.byte == 0xAA) = true := by decide +kernel

/-- TRIPLE = 0x2E5 (G0 = 23, G1 = 1, G2 = 1) gives BYTE = 0xE5: bits 4:3 of G0 are ignored. -/
theorem test_merge : nextHas (execMerge (blank.setTriple 0x2E5)) (fun t => t.byte == 0xE5 && t.triple == 0x2E5) =
    true := by decide +kernel

/-- PIX = (18,52,86), BYTE = 0xA5 gives (21,49,85) = 0x553115. -/
theorem test_pack : nextHas (execPack ((blank.setPix 0x563412).setByte 0xA5))
    (fun t => t.pix == 0x553115 && pixelCh0 t.pix == 21 && pixelCh1 t.pix == 49 && pixelCh2 t.pix == 85) = true := by
  decide +kernel

/-- PIX = (255,255,255), BYTE = 0x00 gives (248,248,252): channel 2 keeps its bit 2. -/
theorem test_pack_high_bits : nextHas (execPack (blank.setPix 0xFFFFFF)) (fun t => t.pix == 0xFCF8F8) = true := by
  decide +kernel

/-- PIX = (18,52,86) gives BYTE = 0x52; PIX = (8,8,4) gives 0x00. -/
theorem test_unpack : nextHas (execUnpack (blank.setPix 0x563412)) (fun t => t.byte == 0x52 && t.pix == 0x563412) =
      true ∧
    nextHas (execUnpack ((blank.setPix 0x040808).setByte 0xFF)) (fun t => t.byte == 0x00) = true := by decide +kernel

/-! ### The iterator (section 2.6) -/

/-- 3 x 7, IDX = 20: pixel (2, 6). -/
theorem test_ldpix : nextHas (execLdpix ((grid 3 7 20).setCar (carWrite [] 2 6 0xFCF8F8)))
    (fun t => t.pix == 0xFCF8F8 && t.idx == 20) = true := by decide +kernel

/-- 65535 x 65535, IDX = 4294836225: TruncatedCarrier with ERRINFO = IDX. -/
theorem test_ldpix_out_of_range : nextHas (execLdpix (grid 65535 65535 4294836225))
    (fun t => t.err == 4 && t.errInfo == 4294836225 && t.pix == 0) = true := by decide +kernel

/-- 65535 x 65535, IDX = 4294836224: pixel (65534, 65534) and no other. -/
theorem test_stpix : nextHas (execStpix ((grid 65535 65535 4294836224).setPix 0xFCF8F8))
    (fun t => t.car == [(65534 * 65536 + 65534, 0xFCF8F8)]) = true := by decide +kernel

/-- 10 x 0: CapacityOverflow with ERRINFO = IDX. -/
theorem test_stpix_out_of_range : nextHas (execStpix ((grid 10 0 0).setPix 0xFCF8F8))
    (fun t => t.err == 2 && t.errInfo == 0 && t.car == []) = true := by decide +kernel

/-- IDX = 9 gives 10; IDX = 0xFFFFFFFF gives 0. -/
theorem test_inext : nextHas (execInext (grid 10 10 9)) (fun t => t.idx == 10) = true ∧
    nextHas (execInext (grid 10 10 0xFFFFFFFF)) (fun t => t.idx == 0 && t.err == 0) = true := by decide +kernel

/-- IDX = 57 gives IDX = 0 (R132). -/
theorem test_irst : nextHas (execIrst (grid 10 10 57)) (fun t => t.idx == 0) = true := by decide +kernel

/-! ### The header codec (sections 2.4, 2.5) -/

/-- SIZE = 1234 and a name of 25 characters: the last 20 are kept. -/
theorem test_compose_long_name :
    nextHas (execCompose ((withName blank
        ['a', 'b', 'c', 'd', 'e', 'f', 'g', 'h', 'i', 'j', 'k', 'l', 'm', 'n', 'o', 'p', 'q', 'r', 's', 't', 'u', 'v',
          'w', 'x', 'y']).setSize 1234))
      (fun t => t.hdr.toList == bytesOf
        ['<', '0', '0', '0', '0', '1', '2', '3', '4', 'f', 'g', 'h', 'i', 'j', 'k', 'l', 'm', 'n', 'o', 'p', 'q', 'r',
          's', 't', 'u', 'v', 'w', 'x', 'y', '>']) = true := by decide +kernel

/-- SIZE = 99999999 is accepted, SIZE = 100000000 raises SizeOverflow and leaves HDR. -/
theorem test_compose_limit :
    nextHas (execCompose ((withName blank ['a', '.', 't', 'x', 't']).setSize 99999999))
      (fun t => t.err == 0 && bufRead t.hdr 1 == 0x39 && bufRead t.hdr 9 == 0x5F && bufRead t.hdr 24 == 0x61) = true ∧
    nextHas (execCompose (blank.setSize 100000000))
      (fun t => t.err == 1 && t.errInfo == 100000000 && bufRead t.hdr 0 == 0x11) = true := by decide +kernel

/-- The header with the name "__a_b_____________c_" gives SIZE = 12, NLEN = 17. -/
theorem test_parse :
    nextHas (execParse (withHdr blank
        ['<', '0', '0', '0', '0', '0', '0', '1', '2', '_', '_', 'a', '_', 'b', '_', '_', '_', '_', '_', '_', '_', '_',
          '_', '_', '_', '_', '_', 'c', '_', '>']))
      (fun t => t.size == 12 && t.nlen == 17 && bufRead t.name 0 == 0x61 && bufRead t.name 16 == 0x63 &&
        bufRead t.name 17 == 0x22 && t.err == 0) = true := by decide +kernel

/-- A space in the size field: ERR = 3, ERRINFO = 5; an end marker that is wrong wins over it: ERRINFO = 29. -/
theorem test_parse_malformed :
    nextHas (execParse (withHdr blank
        ['<', '0', '0', '0', '0', ' ', '0', '0', '3', '_', '_', '_', '_', '_', '_', '_', '_', '_', '_', '_', '_', '_',
          '_', '_', 'a', '.', 't', 'x', 't', '>']))
      (fun t => t.err == 3 && t.errInfo == 5 && t.size == 0 && t.nlen == 0) = true ∧
    nextHas (execParse (withHdr blank
        ['<', '0', '0', '0', '0', 'a', '0', '0', '3', '_', '_', '_', '_', '_', '_', '_', '_', '_', '_', '_', '_', '_',
          '_', '_', 'a', '.', 't', 'x', 't', '!']))
      (fun t => t.err == 3 && t.errInfo == 29) = true := by decide +kernel

/-! ### The stream commands (sections 1.7, 1.8, 2.7) -/

/-- The header of the scenario of section 1.7. -/
def scenarioHdr : List Char :=
  ['<', '0', '0', '0', '0', '0', '0', '0', '3', '_', '_', '_', '_', '_', '_', '_', '_', '_', '_', '_', '_', '_', '_',
    '_', 'a', '.', 't', 'x', 't', '>']

/-- The column "as PIX" of section 1.7, pixels 0 to 32. -/
def scenarioPixels : List Pixel :=
  ([0xFCFFF9] ++ List.replicate 7 0xFCFCF9) ++ ([0xFFFCF9] ++ List.replicate 15 0xFFFFFA) ++
    [0xFDF8FB, 0xFEFBF9, 0xFCFDFB, 0xFCFEFB, 0xFCFDFB, 0xFEFFF9, 0xFCF8F8, 0xFFFFFF, 0xFEFEFB]

/-- A 10 x 10 carrier whose pixel of index `i` is `f i`. -/
def carrierOf (f : Nat → Pixel) : Memory 24 :=
  (List.range 100).map fun i => (i / 10 * 65536 + i % 10, f i)

/-- The scenario before EMBED: a white 10 x 10 carrier, payload 00 FF 7A. -/
def scenario : State :=
  ((((withHdr (grid 10 10 0) scenarioHdr).setCar (carrierOf fun _ => 0xFFFFFF)).setPay [(1, 0xFF), (2, 0x7A)])).setPlen 3

/-- EMBED writes the 33 pixels of the table and leaves 33 to 99, IDX = 33. -/
theorem test_embed : nextHas (execEmbed scenario)
    (fun t => t.car == carrierOf (fun i => scenarioPixels.getD i 0xFFFFFF) && t.idx == 33 && t.err == 0) = true := by
  decide +kernel

/-- 5 x 7: PLEN = 6 raises with ERRINFO = 6 and leaves IDX = 77; PLEN = 5 fills the carrier, IDX = 35. -/
theorem test_embed_capacity :
    nextHas (execEmbed ((grid 5 7 77).setPlen 6)) (fun t => t.err == 2 && t.errInfo == 6 && t.idx == 77 && t.car == []) =
      true ∧
    nextHas (execEmbed ((grid 5 7 77).setPlen 5)) (fun t => t.err == 0 && t.idx == 35) = true := by decide +kernel

/-- EXTRACT of the embedded carrier recovers the header, "a.txt" and 00 FF 7A. -/
theorem test_extract :
    nextHas (execExtract ((grid 10 10 0).setCar (carrierOf fun i => scenarioPixels.getD i 0xFFFFFF)))
      (fun t => t.hdr.toList == bytesOf scenarioHdr && t.size == 3 && t.nlen == 5 &&
        t.name.toList.take 5 == bytesOf ['a', '.', 't', 'x', 't'] && t.pay == [(1, 0xFF), (2, 0x7A)] && t.plen == 3 &&
        t.idx == 33 && t.err == 0) = true := by decide +kernel

/-- 5 x 5: TruncatedCarrier, ERRINFO = 30, HDR and IDX as they were; all-black 10 x 10: HDR 30 bytes 0x00, IDX = 30,
MalformedHeader, ERRINFO = 0 (section 2.8). -/
theorem test_extract_fails :
    nextHas (execExtract (grid 5 5 77))
      (fun t => t.err == 4 && t.errInfo == 30 && t.idx == 77 && bufRead t.hdr 0 == 0x11) = true ∧
    nextHas (execExtract (grid 10 10 77))
      (fun t => t.err == 3 && t.errInfo == 0 && t.idx == 30 && t.hdr == Vector.replicate 30 0 && t.plen == 0) = true := by
  decide +kernel

/-! ### The host's actions (R20, R53, section 2.10) -/

/-- `RD` of a register gives its value zero-extended; a write of 70,000 to ROWS keeps 4,464 (decision D3). -/
theorem test_register_port :
    nextHas (step (blank.setScript [.wr 3 70000])) (fun t => t.rows == 4464) = true ∧
    nextHas (step ((blank.setTriple 0x3FF).setScript [.rd 9])) (fun t => t.readBack == [0x000003FF]) = true ∧
    nextHas (step ((blank.setPix 0xFFFFFF).setScript [.rd 12])) (fun t => t.readBack == [0]) = true := by decide +kernel

/-- `RD BYTE -> b ; WRB HDR[29], b` writes the low 8 bits of the reading; `WRP k, b` the same; a buffer index outside it
does nothing (R53, R156), and neither does a line with nothing read (assumption 16). -/
theorem test_write_last_read :
    nextHas (step ((blank.setReadBack [0x1AB, 0xCD]).setScript [.wrbRead .hdr 29]))
      (fun t => bufRead t.hdr 29 == 0xAB && bufRead t.hdr 28 == 0x11 && t.readBack == [0x1AB, 0xCD]) = true ∧
    nextHas (step ((blank.setReadBack [0x1AB]).setScript [.wrpRead 0xFFFFFFFF]))
      (fun t => t.pay == [(0xFFFFFFFF, 0xAB)]) = true ∧
    nextHas (step ((blank.setReadBack [0x1AB]).setScript [.wrbRead .name 255]))
      (fun t => bufRead t.name 254 == 0x22) = true ∧
    nextHas (step (blank.setScript [.wrpRead 0])) (fun t => t.pay == [] && t.readBack == []) = true := by decide +kernel

/-- `RDC` of (1, 2, 3) gives channel 2 uppermost; `RDP`, `RDB` and `RD` zero-extend (R51 to R53). -/
theorem test_reads :
    nextHas (step ((blank.setCar (carWrite [] 2 6 0x030201)).setScript [.rdc 2 6])) (fun t => t.readBack == [0x030201]) =
      true ∧
    nextHas (step ((blank.setPay [(7, 0xFE)]).setScript [.rdp 7])) (fun t => t.readBack == [0xFE]) = true ∧
    nextHas (step (blank.setScript [.rdb .name 254])) (fun t => t.readBack == [0x22]) = true ∧
    nextHas (step (blank.setScript [.rdb .hdr 30])) (fun t => t.readBack == [0]) = true := by decide +kernel

/-- Reset clears the registers and the latch, and leaves the carrier. -/
theorem test_reset :
    nextHas (step ((((grid 3 7 20).setLatch 4 30).setCar (carWrite [] 2 6 0xFCF8F8)).setScript [.reset]))
      (fun t => t.err == 0 && t.errInfo == 0 && t.rows == 0 && t.cols == 0 && t.idx == 0 &&
        t.car == [(2 * 65536 + 6, 0xFCF8F8)]) = true := by decide +kernel

/-! ### Witnesses: states and operands that meet the hypotheses of each statement -/

/-- A state with an error latched. -/
def latched : State := blank.setLatch 4 30

/-- A state whose next line writes a word to CMD. -/
def writing (s : State) (w : Word) : State := s.setScript [.wr 0 w]

/-- The header "<00000012", twenty underscores, ">": a name of no byte. -/
def emptyNameHdr : List Char :=
  ['<', '0', '0', '0', '0', '0', '0', '1', '2', '_', '_', '_', '_', '_', '_', '_', '_', '_', '_', '_', '_', '_', '_',
    '_', '_', '_', '_', '_', '_', '>']

/-- The header "<99999999", a name of twenty bytes, ">". -/
def fullNameHdr : List Char :=
  ['<', '9', '9', '9', '9', '9', '9', '9', '9', '1', '2', '3', '4', '5', '6', '7', '8', '9', '0', '1', '2', '3', '4',
    '5', '6', '7', '8', '9', '0', '>']

/-- A carrier whose first 30 pixels hide a header. -/
def headerIn (rows cols : Dim) (l : List Char) : State :=
  (grid rows cols 0).setCar (embedTurns cols (fun j => (bytesOf l).getD j 0) [] 30)

theorem witness_DecodeAndEncodeAgree : Instr.clrerr.wellFormed = true ∧ decode 0x0000000F#32 = some .clrerr ∧
    decode 0x00000000#32 = some .nop := by decide

theorem witness_FourteenWordsAreCommands : (writing blank 0x10).script = .wr 0 0x10#32 :: [] ∧ (writing blank 0x10).err = 0#3 ∧
    (0x10#32 : Word).extractLsb' 4 28 ≠ 0#28 ∧ (0xFFFFFFFF#32 : Word).extractLsb' 4 28 ≠ 0#28 := by decide

theorem witness_StepRunsDecodedCommand : (writing blank 0xF).script = .wr 0 0xF#32 :: [] ∧
    decode 0xF#32 = some .clrerr := by decide

theorem witness_CommandWriteFollowsDecodeOrder :
    (∀ w : Word, (writing latched w).script = .wr 0 w :: [] ∧ (writing blank w).script = .wr 0 w :: []) ∧
    (writing latched 0xF).err ≠ 0#3 ∧ (writing latched 0xE).err ≠ 0#3 ∧ (0xE#32 : Word) ≠ 0x0000000F#32 ∧
    (writing blank 0x10).err = 0#3 ∧ (0x10#32 : Word).extractLsb' 4 28 ≠ 0#28 ∧
    (0xD#32 : Word).extractLsb' 4 28 = 0#28 ∧ (0xD#32 : Word).extractLsb' 0 4 = 0xD#4 ∧
    (0xE#32 : Word).extractLsb' 4 28 = 0#28 ∧ (0xE#32 : Word).extractLsb' 0 4 = 0xE#4 ∧
    (0xC#32 : Word).extractLsb' 4 28 = 0#28 ∧ (0xC#32 : Word).extractLsb' 0 4 ≠ 0xD#4 ∧
    (0xC#32 : Word).extractLsb' 0 4 ≠ 0xE#4 ∧ (0xF#32 : Word).extractLsb' 0 4 ≠ 0xE#4 :=
  ⟨fun _ => ⟨rfl, rfl⟩, by decide⟩

theorem witness_EveryCommandAndStepCompletes : blank.script = [] := rfl

theorem witness_IllegalWordRaises : blank.err = 0#3 ∧ 16 ≤ (0x10#32 : Word).toNat ∧ (0xD#32 : Word).toNat = 0xD ∧
    (0xE#32 : Word).toNat = 0xE := by decide

theorem witness_LatchedErrorGatesCommands : latched.err ≠ 0#3 ∧ Instr.nop ≠ .clrerr ∧
    (0xE#32 : Word) ≠ 0x0000000F#32 ∧ (1 : Nat) ≠ 0 := by decide

theorem witness_FirstErrorIsKept : latched.err ≠ 0#3 ∧ (∃ t, step (writing latched 0x1) = .next t) ∧
    (∃ t, step (writing latched 0xF) = .next t) ∧ ∃ t, step (latched.setScript [.reset]) = .next t :=
  ⟨by decide, ⟨_, rfl⟩, ⟨_, rfl⟩, ⟨_, rfl⟩⟩

theorem witness_OnlyRaisingOrClrerrChangesErr : (∃ t, exec .stpix (grid 1 1 1) = .next t) ∧
    (∃ t, exec .stpix (grid 1 1 0) = .next t) ∧ ∃ t, exec .clrerr latched = .next t :=
  ⟨⟨_, rfl⟩, ⟨_, rfl⟩, ⟨_, rfl⟩⟩

/-- Of ErrInfoIsTheOffendingValue and RaisingCommandsLeaveTheRest: STPIX one past the last pixel, EXTRACT with 29. -/
theorem witness_RaisingCommands : (grid 1 1 1).err = 0#3 ∧
    nextHas (exec .stpix (grid 1 1 1)) (fun t => decide (t.err ≠ 0#3)) = true ∧ (grid 1 29 0).err = 0#3 ∧
    nextHas (exec .extract (grid 1 29 0)) (fun t => decide (t.err ≠ 0#3)) = true := by decide +kernel

theorem witness_ClrerrClearsTheLatch : (blank.err = 0#3 ∧ blank.errInfo = 0#32) ∧
    latched.err ≠ 0#3 ∧ Instr.extract ≠ .clrerr := by decide

/-- Of SplitWritesTheTriple, MergeWritesTheByte, PackWritesThePixel and UnpackWritesTheByte. -/
theorem witness_BitPlaneCommands : ((blank.setByte 0xFF).setTriple 0x3FF).err = 0#3 ∧
    ∃ t, exec .pack ((blank.setByte 0xFF).setTriple 0x3FF) = .next t :=
  ⟨by decide, ⟨_, rfl⟩⟩

theorem witness_SplitAndMergeAreInverse : ((7#8 : Byte).toNat ≤ 7 ∧ (3#8 : Byte).toNat ≤ 3 ∧ blank.err = 0#3) ∧
    ∃ t u, exec .split blank = .next t ∧ exec .merge (t.setByte 0xFF) = .next u :=
  ⟨by decide, ⟨_, _, rfl, rfl⟩⟩

theorem witness_LanesDoNotInteract : pixelCh0 0x0000FF#24 = pixelCh0 0xFFFFFF#24 ∧ group0 0xE0#8 = group0 0xFF#8 ∧
    pixelCh1 0x00FF00#24 = pixelCh1 0xFFFFFF#24 ∧ group1 0x1C#8 = group1 0xFF#8 ∧
    pixelCh2 0xFF0000#24 = pixelCh2 0xFFFFFF#24 ∧ group2 0x03#8 = group2 0xFF#8 := by decide

theorem witness_IteratorStepsTheIndex : (grid 65535 65535 4294836224).err = 0#3 ∧
    (grid 65535 65535 4294836224).idx.toNat <
      (grid 65535 65535 4294836224).rows.toNat * (grid 65535 65535 4294836224).cols.toNat := by decide

theorem witness_RasterOrderIsOneToOne : 20 < (3#16 : Dim).toNat * (7#16 : Dim).toNat ∧
    (2#16 : Dim).toNat < (3#16 : Dim).toNat ∧ (6#16 : Dim).toNat < (7#16 : Dim).toNat := by decide

/-- Of LdpixLoadsOrRaises, StpixStoresOrRaises and LoadPackStoreEmbedsAByte: the last index in range and the first
out of range. -/
theorem witness_LdpixStpix :
    ((grid 3 7 20).err = 0#3 ∧ (grid 3 7 20).idx.toNat < (grid 3 7 20).rows.toNat * (grid 3 7 20).cols.toNat ∧
      (2#16 : Dim).toNat = (grid 3 7 20).idx.toNat / (grid 3 7 20).cols.toNat ∧
      (6#16 : Dim).toNat = (grid 3 7 20).idx.toNat % (grid 3 7 20).cols.toNat) ∧
    (grid 3 7 21).err = 0#3 ∧ (grid 3 7 21).rows.toNat * (grid 3 7 21).cols.toNat ≤ (grid 3 7 21).idx.toNat := by
  decide

theorem witness_EmptyCarrierAlwaysRaises : (grid 0 10 0).err = 0#3 ∧ (grid 0 10 0).rows = 0#16 ∧
    (grid 10 0 0).err = 0#3 ∧ (grid 10 0 0).cols = 0#16 := by decide

/-- The limits of SIZE and of NLEN: 99,999,999 and 100,000,000; 20 and 19. -/
theorem witness_ComposeBuildsTheHeader : (blank.setSize 99999999).err = 0#3 ∧
    (blank.setSize 99999999).size.toNat ≤ 99999999 ∧ 99999999 < (blank.setSize 100000000).size.toNat ∧
    20 ≤ (blank.setNlen 20).nlen.toNat ∧ (blank.setNlen 19).nlen.toNat < 20 ∧
    0 < 20 - (blank.setNlen 19).nlen.toNat ∧ 20 - (blank.setNlen 19).nlen.toNat ≤ 19 := by decide

/-- Of ParseDeliversOrRaises. A wrong byte 0; a wrong byte 29; a byte 1 (the first of the size field) and a byte 8 (the last) that is no digit. -/
theorem witness_ParseDeliversOrRaises_malformed :
    bufRead blank.hdr 0 ≠ 0x3C#8 ∧
    (bufRead (withHdr blank ['<']).hdr 0 = 0x3C#8 ∧ bufRead (withHdr blank ['<']).hdr 29 ≠ 0x3E#8) ∧
    (bufRead (writeBuffer (withHdr blank fullNameHdr) .hdr 1 0x2F).hdr 0 = 0x3C#8 ∧
      bufRead (writeBuffer (withHdr blank fullNameHdr) .hdr 1 0x2F).hdr 29 = 0x3E#8 ∧
      (bufRead (writeBuffer (withHdr blank fullNameHdr) .hdr 1 0x2F).hdr (1 + 0)).toNat < 0x30) ∧
    (bufRead (writeBuffer (withHdr blank fullNameHdr) .hdr 8 0x3A).hdr 0 = 0x3C#8 ∧
      bufRead (writeBuffer (withHdr blank fullNameHdr) .hdr 8 0x3A).hdr 29 = 0x3E#8 ∧
      (∀ j, j < 7 → 0x30 ≤ (bufRead (writeBuffer (withHdr blank fullNameHdr) .hdr 8 0x3A).hdr (1 + j)).toNat ∧
        (bufRead (writeBuffer (withHdr blank fullNameHdr) .hdr 8 0x3A).hdr (1 + j)).toNat ≤ 0x39) ∧
      0x39 < (bufRead (writeBuffer (withHdr blank fullNameHdr) .hdr 8 0x3A).hdr (1 + 7)).toNat) := by decide +kernel

/-- Of ParseDeliversOrRaises: a header with a name of no byte, size 12, and one with a name of twenty, size 99,999,999. -/
theorem witness_ParseDeliversOrRaises_good :
    ((withHdr blank emptyNameHdr).err = 0#3 ∧ bufRead (withHdr blank emptyNameHdr).hdr 0 = 0x3C#8 ∧
      bufRead (withHdr blank emptyNameHdr).hdr 29 = 0x3E#8 ∧
      (∀ k, k < 8 → 0x30 ≤ (bufRead (withHdr blank emptyNameHdr).hdr (1 + k)).toNat ∧
        (bufRead (withHdr blank emptyNameHdr).hdr (1 + k)).toNat ≤ 0x39)) ∧
    ((withHdr blank fullNameHdr).err = 0#3 ∧ bufRead (withHdr blank fullNameHdr).hdr 0 = 0x3C#8 ∧
      bufRead (withHdr blank fullNameHdr).hdr 29 = 0x3E#8 ∧
      (∀ k, k < 8 → 0x30 ≤ (bufRead (withHdr blank fullNameHdr).hdr (1 + k)).toNat ∧
        (bufRead (withHdr blank fullNameHdr).hdr (1 + k)).toNat ≤ 0x39)) := by decide +kernel

theorem witness_SizeFieldRoundTrip : 99999999 ≤ 99999999 ∧ (undec8 fun _ => 0x39#8) = .ok 99999999 :=
  ⟨Nat.le_refl _, by rfl⟩

theorem witness_ComposedHeadersParse : (blank.setSize 99999999).err = 0#3 ∧
    (blank.setSize 99999999).size.toNat ≤ 99999999 ∧ ∃ t, exec .compose (blank.setSize 99999999) = .next t :=
  ⟨by decide, by decide, ⟨_, rfl⟩⟩

/-- A name of twenty bytes and a name of none. -/
theorem witness_HeaderRoundTrip :
    ((blank.setNlen 20).err = 0#3 ∧ (blank.setNlen 20).size.toNat ≤ 99999999 ∧ (blank.setNlen 20).nlen.toNat ≤ 20 ∧
      bufRead (blank.setNlen 20).name 0 ≠ 0x5F#8 ∧ bufRead (blank.setNlen 20).name 19 ≠ 0x5F#8) ∧
    ¬ 0 < blank.nlen.toNat ∧
    ∃ t u, exec .compose (blank.setNlen 20) = .next t ∧
      exec .parse (((t.setSize 7).setNlen 3).setName blank.name) = .next u :=
  ⟨by decide +kernel, by decide, ⟨_, _, rfl, rfl⟩⟩

/-- A composed and parsed header; "____", "_x_" with `a = 1`, `n = 1`, and a name of 21 bytes. -/
theorem witness_NamesThatDoNotComeBack :
    (blank.err = 0#3 ∧ blank.size.toNat ≤ 99999999 ∧ ∃ t u, exec .compose blank = .next t ∧ exec .parse t = .next u) ∧
    (∀ j, j < 4 → (fun _ : Nat => 0x5F#8) j = 0x5F#8) ∧
    ((3 : Nat) ≤ 20 ∧ 1 + 1 ≤ 3 ∧ (∀ j, j < 1 → (fun j : Nat => if j = 1 then 0x78#8 else 0x5F#8) j = 0x5F#8) ∧
      (∀ j, 1 + 1 ≤ j → j < 3 → (fun j : Nat => if j = 1 then 0x78#8 else 0x5F#8) j = 0x5F#8) ∧
      (fun j : Nat => if j = 1 then 0x78#8 else 0x5F#8) 1 ≠ 0x5F#8) ∧ 20 < 21 :=
  ⟨⟨by decide, by decide, ⟨_, _, rfl, rfl⟩⟩, fun _ _ => rfl, ⟨by decide, by decide, by decide, fun j h _ => by simp; omega, by decide⟩, by decide⟩

/-- 30 + PLEN equal to the pixel count, and one more. -/
theorem witness_EmbedHidesTheStream : ((grid 5 7 0).setPlen 5).err = 0#3 ∧
    30 + ((grid 5 7 0).setPlen 5).plen.toNat ≤
      ((grid 5 7 0).setPlen 5).rows.toNat * ((grid 5 7 0).setPlen 5).cols.toNat ∧
    (4#32 : Word).toNat < ((grid 5 7 0).setPlen 5).plen.toNat ∧ ((grid 5 7 0).setPlen 6).err = 0#3 ∧
    ((grid 5 7 0).setPlen 6).rows.toNat * ((grid 5 7 0).setPlen 6).cols.toNat <
      30 + ((grid 5 7 0).setPlen 6).plen.toNat := by decide

theorem witness_EmbedTooLargeWritesNothing : ((grid 5 7 0).setPlen 6).err = 0#3 ∧
    ((grid 5 7 0).setPlen 6).rows.toNat * ((grid 5 7 0).setPlen 6).cols.toNat <
      30 + ((grid 5 7 0).setPlen 6).plen.toNat ∧
    ((grid 65535 65535 0).setPlen 0xFFFFFFFF).err = 0#3 ∧
    ((grid 65535 65535 0).setPlen 0xFFFFFFFF).plen = 0xFFFFFFFF#32 := by decide

/-- Of EmbedTwiceIsOnce and EmbedKeepsTheHighBits. -/
theorem witness_EmbedTwiceIsOnce : (grid 5 7 0).err = 0#3 ∧ Memory.wf (grid 5 7 0).car ∧
    ∃ t u, exec .embed (grid 5 7 0) = .next t ∧ exec .embed t = .next u :=
  ⟨by decide, by decide, ⟨_, _, rfl, rfl⟩⟩

/-- Of ExtractRecoversOrRaises: a size field of 0 on a carrier of just 30 pixels. -/
theorem witness_ExtractRecoversOrRaises_good :
    let s := headerIn 5 6 (['<', '0', '0', '0', '0', '0', '0', '0', '0'] ++ List.replicate 20 '_' ++ ['>'])
    s.err = 0#3 ∧ 30 ≤ s.rows.toNat * s.cols.toNat ∧
      (match parseHdr (fun j => unpackPixel (pixelAt s.cols s.car j)) with
        | .ok (v, nm) => v == 0 && nm == []
        | .error _ => false) = true ∧
      30 + 0 ≤ s.rows.toNat * s.cols.toNat := by decide +kernel

/-- Of ExtractRecoversOrRaises: 29 pixels; 30 pixels that hide no header; 41 pixels that hide a header of size 12. -/
theorem witness_ExtractRecoversOrRaises_fails :
    ((grid 1 29 0).err = 0#3 ∧ (grid 1 29 0).rows.toNat * (grid 1 29 0).cols.toNat < 30) ∧
    (30 ≤ (grid 5 6 0).rows.toNat * (grid 5 6 0).cols.toNat ∧
      (∀ j, j < 30 → bufRead (Vector.replicate 30 0#8) j = unpackPixel (pixelAt (grid 5 6 0).cols (grid 5 6 0).car j)) ∧
      (match parseHdr (bufRead (Vector.replicate 30 0#8)) with
        | .ok _ => false
        | .error j => j == 0) = true) ∧
    ((headerIn 1 41 emptyNameHdr).err = 0#3 ∧
      (∀ j, j < 30 → bufRead (withHdr blank emptyNameHdr).hdr j =
        unpackPixel (pixelAt (headerIn 1 41 emptyNameHdr).cols (headerIn 1 41 emptyNameHdr).car j)) ∧
      (match parseHdr (bufRead (withHdr blank emptyNameHdr).hdr) with
        | .ok (v, nm) => v == 12 && nm == []
        | .error _ => false) = true ∧
      (headerIn 1 41 emptyNameHdr).rows.toNat * (headerIn 1 41 emptyNameHdr).cols.toNat < 30 + 12) := by decide +kernel

theorem witness_EmbedThenExtractRoundTrip : (grid 5 7 0).err = 0#3 ∧ (5#32 : Word).toNat ≤ 99999999 ∧
    30 + (5#32 : Word).toNat ≤ (grid 5 7 0).rows.toNat * (grid 5 7 0).cols.toNat := by decide

/-- 30 + PLEN equal to the pixel count; one more; a carrier of no pixel. -/
theorem witness_EmbedEqualsTheByteLoop : ((grid 5 7 0).setPlen 5).err = 0#3 ∧
    30 + ((grid 5 7 0).setPlen 5).plen.toNat ≤
      ((grid 5 7 0).setPlen 5).rows.toNat * ((grid 5 7 0).setPlen 5).cols.toNat ∧
    (((grid 5 7 0).setPlen 6).err = 0#3 ∧
      ((grid 5 7 0).setPlen 6).rows.toNat * ((grid 5 7 0).setPlen 6).cols.toNat <
        30 + ((grid 5 7 0).setPlen 6).plen.toNat ∧
      0 < ((grid 5 7 0).setPlen 6).rows.toNat * ((grid 5 7 0).setPlen 6).cols.toNat ∧
      ¬ ((4#16 : Dim).toNat < (grid 5 7 0).rows.toNat ∧ (7#16 : Dim).toNat < (grid 5 7 0).cols.toNat)) ∧
    (grid 0 7 0).err = 0#3 ∧ (grid 0 7 0).rows.toNat * (grid 0 7 0).cols.toNat < 30 + (grid 0 7 0).plen.toNat ∧
    (grid 0 7 0).rows.toNat * (grid 0 7 0).cols.toNat = 0 := by decide

/-- Each case: 42 pixels that hide a header of size 12, and 41, one too few; 29 pixels and none; 30 pixels that hide a
header of size 12, so that the first payload byte is out of range; 30 pixels that hide no header. -/
theorem witness_ExtractEqualsTheByteLoop :
    ((headerIn 1 42 emptyNameHdr).err = 0#3 ∧
      nextHas (exec .extract (headerIn 1 42 emptyNameHdr)) (fun t => t.err == 0#3 && t.size == 12) = true) ∧
    ((headerIn 1 41 emptyNameHdr).err = 0#3 ∧
      nextHas (exec .extract (headerIn 1 41 emptyNameHdr)) (fun t => t.err == 4#3 && t.size == 12) = true) ∧
    ((grid 1 29 0).err = 0#3 ∧ (grid 1 29 0).rows.toNat * (grid 1 29 0).cols.toNat < 30 ∧
      nextHas (exec .extract (grid 1 29 0)) (fun t => t.err == 4#3) = true) ∧
    ((grid 0 0 0).err = 0#3 ∧ (grid 0 0 0).rows.toNat * (grid 0 0 0).cols.toNat = 0 ∧
      nextHas (exec .extract (grid 0 0 0)) (fun t => t.err == 4#3) = true) ∧
    ((headerIn 5 6 emptyNameHdr).err = 0#3 ∧
      30 ≤ (headerIn 5 6 emptyNameHdr).rows.toNat * (headerIn 5 6 emptyNameHdr).cols.toNat ∧
      nextHas (exec .extract (headerIn 5 6 emptyNameHdr)) (fun t => t.err == 4#3 && t.size == 12) = true) ∧
    ((grid 5 6 0).err = 0#3 ∧ nextHas (exec .extract (grid 5 6 0)) (fun t => t.err == 3#3) = true) := by decide +kernel

theorem witness_HideStopsAtTheFirstError : (blank.setSize 100000000).err = 0#3 ∧
    99999999 < (blank.setSize 100000000).size.toNat := by decide

/-- A line for each register, for the two that are read-only, for the first number past the last; both errors' states. -/
theorem witness_RegisterPortKeepsTheLowBits :
    (∀ n : Nat, (blank.setScript [.wr n 0xFFFFFFFF]).script = .wr n 0xFFFFFFFF#32 :: [] ∧
      (latched.setScript [.wr n 0xFFFFFFFF]).script = .wr n 0xFFFFFFFF#32 :: []) ∧
    nextHas (step (blank.setScript [.wr 11 0xFFFFFFFF])) (fun t => t.nlen == 0xFF && t.pix == 0 && bufRead t.name 0 == 0x22) = true ∧
    nextHas (step (blank.setScript [.wr 12 0xFFFFFFFF])) (fun t => t.nlen == 0 && t.err == 0) = true ∧
    nextHas (step (latched.setScript [.wr 1 0])) (fun t => t.err == 4 && t.errInfo == 30) = true ∧
    (3 : Nat) ≠ 4 ∧ (12 : Nat) ≤ 12 := ⟨fun _ => ⟨rfl, rfl⟩, by decide +kernel⟩

/-- The last byte of each buffer and the first index past it. -/
theorem witness_BufferPortReadsBack :
    (∀ (b : Buffer) (j : Nat), (latched.setScript [.wrb b j 7]).script = .wrb b j 7#8 :: []) ∧
    nextHas (step (latched.setScript [.wrb .hdr 29 7])) (fun t => bufRead t.hdr 29 == 7 && bufRead t.hdr 28 == 0x11) =
      true ∧
    nextHas (step (blank.setScript [.wrb .hdr 30 7])) (fun t => bufRead t.hdr 29 == 0x11 && bufRead t.name 30 == 0x22) = true ∧
    nextHas (step (blank.setScript [.wrb .name 254 7])) (fun t => bufRead t.name 254 == 7 && bufRead t.name 253 == 0x22) =
      true ∧
    nextHas (step (blank.setScript [.wrb .name 255 7])) (fun t => bufRead t.name 254 == 0x22) = true ∧
    29 < 30 ∧ 30 ≤ 30 ∧ 254 < 255 ∧ 255 ≤ 255 := ⟨fun _ _ => rfl, by decide +kernel⟩

/-- The last byte of PAY; the last pixel of a 3 x 7 grid; the last pair of all, outside every grid (assumption 5). -/
theorem witness_MemoryPortReadsBack :
    (blank.setScript [.wrp 0xFFFFFFFF 0xFF]).script = .wrp 0xFFFFFFFF#32 0xFF#8 :: [] ∧
    (((grid 3 7 0).setScript [.wrc 2 6 1 2 3]).script = .wrc 2#16 6#16 1#8 2#8 3#8 :: [] ∧
      (2#16 : Dim).toNat < (grid 3 7 0).rows.toNat ∧ (6#16 : Dim).toNat < (grid 3 7 0).cols.toNat ∧
      ¬ ((1#16 : Dim) = 2#16 ∧ (6#16 : Dim) = 6#16)) ∧
    (blank.setScript [.wrc 65535 65535 1 2 3]).script = .wrc 65535#16 65535#16 1#8 2#8 3#8 :: [] ∧
    ¬ ((65535#16 : Dim) = 65535#16 ∧ (0#16 : Dim) = 65535#16) := by decide +kernel

/-- A read line of each kind with the value the statement gives it: the last register and the first number past it, the
last byte of each buffer and the first index past it, the last byte of PAY, a pixel of a 3 x 7 grid. -/
theorem witness_ReadsHaveNoSideEffect :
    (nextHas (step ((blank.setNlen 0xFF).setScript [.rd 11])) (fun t => t.readBack == [0xFF]) = true ∧
      nextHas (step (latched.setScript [.rd 1])) (fun t => t.readBack == [4]) = true ∧
      nextHas (step (blank.setScript [.rd 12])) (fun t => t.readBack == [0]) = true) ∧
    (nextHas (step (blank.setScript [.rdb .hdr 29])) (fun t => t.readBack == [0x11]) = true ∧
      nextHas (step (blank.setScript [.rdb .hdr 30])) (fun t => t.readBack == [0]) = true ∧
      nextHas (step (blank.setScript [.rdb .name 254])) (fun t => t.readBack == [0x22]) = true ∧
      nextHas (step (blank.setScript [.rdb .name 255])) (fun t => t.readBack == [0]) = true) ∧
    nextHas (step ((blank.setPay [(0xFFFFFFFF, 7)]).setScript [.rdp 0xFFFFFFFF])) (fun t => t.readBack == [7]) = true ∧
    nextHas (step (((grid 3 7 0).setCar (carWrite [] 2 6 0x030201)).setScript [.rdc 2 6]))
      (fun t => t.readBack == [3 * 65536 + 2 * 256 + 1]) = true := by decide +kernel

theorem witness_ResetClearsTheRegisters : (blank.setScript [.reset]).script = .reset :: [] := rfl

theorem witness_EveryStepKeepsTheInvariant : LegalState (writing (grid 1 1 1) 0x6) ∧
    ∃ t, step (writing (grid 1 1 1) 0x6) = .next t :=
  ⟨⟨by decide, fun _ => rfl, Memory.wf_nil, Memory.wf_nil⟩, ⟨_, rfl⟩⟩

theorem witness_CommandsWriteOnlyTheirRow : ∃ t, exec .extract (grid 5 7 0) = .next t := ⟨_, rfl⟩

/-- Two carriers that agree inside the 1 x 1 grid and differ outside it. -/
theorem witness_CommandsStayInsideTheCarrier : ∀ row col : Dim, row.toNat < (grid 1 1 0).rows.toNat →
    col.toNat < (grid 1 1 0).cols.toNat → carRead (carWrite [] 1 1 0xFFFFFF#24) row col = carRead (grid 1 1 0).car row col := by
  intro row col hr _
  rw [carRead_carWrite, if_neg]
  · rfl
  · rintro ⟨rfl, _⟩
    exact absurd hr (by decide)

end Sys2Proof.Tests
end

/-! ### The decoder on the fields of format C and on the word as a number (R70 to R76) -/

namespace Sys2Proof

/-- Format C: the two fields are the whole word (R70). -/
theorem toNat_eq_zeroField_opField (w : Word) : w.toNat = (zeroField w).toNat * 16 + (opField w).toNat := by
  have hlt := w.isLt
  simp only [zeroField, opField, BitVec.extractLsb'_toNat, Nat.shiftRight_eq_div_pow]
  omega

theorem word_ext_fields {u w : Word} (hzero : zeroField u = zeroField w) (hop : opField u = opField w) : u = w := by
  apply BitVec.eq_of_toNat_eq
  rw [toNat_eq_zeroField_opField u, toNat_eq_zeroField_opField w, hzero, hop]

/-- Every opcode but the two reserved ones names a command (R72, R73). -/
theorem ofOpcode_isSome_iff (op : BitVec 4) : (ofOpcode op.toNat).isSome = true ↔ op ≠ 0xD#4 ∧ op ≠ 0xE#4 := by
  decide +revert

/-- The words that decode, by their fields (R72 to R74). -/
theorem decode_isSome_iff_fields (w : Word) :
    (decode w).isSome = true ↔ zeroField w = 0#28 ∧ opField w ≠ 0xD#4 ∧ opField w ≠ 0xE#4 := by
  by_cases hzero : zeroField w = 0#28
  · simp [decode, hzero, ofOpcode_isSome_iff]
  · simp [decode, hzero]

/-- The words that decode, as numbers (R74). -/
theorem decode_isSome_iff (w : Word) :
    (decode w).isSome = true ↔ w.toNat < 16 ∧ w.toNat ≠ 0xD ∧ w.toNat ≠ 0xE := by
  have hw := toNat_eq_zeroField_opField w
  have hop := (opField w).isLt
  simp only [decode_isSome_iff_fields, ← BitVec.toNat_inj, BitVec.toNat_ofNat, ne_eq]
  omega

theorem decode_eq_none_of_zeroField_ne {w : Word} (h : zeroField w ≠ 0#28) : decode w = none := if_neg h

theorem decode_eq_none_of_reserved {w : Word} (h : opField w = 0xD#4 ∨ opField w = 0xE#4) : decode w = none := by
  rw [← Option.not_isSome_iff_eq_none, decode_isSome_iff_fields]
  tauto

/-- The words that are no command, as numbers (R73, R74). -/
theorem decode_eq_none_iff (w : Word) : decode w = none ↔ 16 ≤ w.toNat ∨ w.toNat = 0xD ∨ w.toNat = 0xE := by
  rw [← Option.not_isSome_iff_eq_none, decode_isSome_iff]
  omega

/-- The per-command laws of `Laws/PerInstr.lean`, for a command that is not known. -/
theorem encodingLaw : ∀ i : Instr, Laws.Encoding.Statement i
  | .nop => Laws.Encoding.nop
  | .split => Laws.Encoding.split
  | .merge => Laws.Encoding.merge
  | .pack => Laws.Encoding.pack
  | .unpack => Laws.Encoding.unpack
  | .ldpix => Laws.Encoding.ldpix
  | .stpix => Laws.Encoding.stpix
  | .inext => Laws.Encoding.inext
  | .compose => Laws.Encoding.compose
  | .parse => Laws.Encoding.parse
  | .embed => Laws.Encoding.embed
  | .extract => Laws.Encoding.extract
  | .irst => Laws.Encoding.irst
  | .clrerr => Laws.Encoding.clrerr

@[simp] theorem zeroField_encode (i : Instr) : zeroField (encode i) = 0#28 := by
  obtain ⟨_, hzero, _⟩ := encodingLaw i
  exact hzero

@[simp] theorem decode_encode (i : Instr) : decode (encode i) = some i := by
  obtain ⟨_, _, _, hdecode, _⟩ := encodingLaw i
  exact hdecode

/-- The opcode map gives a command for its own opcode only (R72). -/
theorem eq_opField_encode_of_ofOpcode {op : BitVec 4} {i : Instr} (h : ofOpcode op.toNat = some i) :
    op = opField (encode i) := by
  obtain ⟨_, _, _, _, _, honly⟩ := encodingLaw i
  exact BitVec.eq_of_toNat_eq ((honly op.toNat op.isLt).mp h)

/-- A word that decodes is the word of its command and no other. -/
theorem encode_of_decode {w : Word} {i : Instr} (h : decode w = some i) : encode i = w := by
  unfold decode at h
  split at h
  · next hzero =>
    exact word_ext_fields ((zeroField_encode i).trans hzero.symm) (eq_opField_encode_of_ofOpcode h).symm
  · contradiction

/-- The commands, in the order of the opcode map (R72). -/
def commands : List Instr :=
  [.nop, .split, .merge, .pack, .unpack, .ldpix, .stpix, .inext, .compose, .parse, .embed, .extract, .irst, .clrerr]

theorem mem_commands (i : Instr) : i ∈ commands := by
  cases i <;> decide

/-- The words that decode are the words of the commands. -/
theorem decode_isSome_iff_mem (w : Word) : (decode w).isSome = true ↔ w ∈ commands.map encode := by
  rw [Option.isSome_iff_exists, List.mem_map]
  constructor
  · rintro ⟨i, hi⟩
    exact ⟨i, mem_commands i, encode_of_decode hi⟩
  · rintro ⟨i, _, rfl⟩
    exact ⟨i, decode_encode i⟩

end Sys2Proof

/-! ### A write to CMD (R21, R73, R77, R188) -/

namespace Sys2Proof.Machine

/-- A step whose next line writes a word to CMD runs that word (R21). -/
theorem step_wr_cmd {s : State} {w : Word} {rest : List HostAction} (h : s.script = .wr 0 w :: rest) :
    step s = runCommand w (s.setScript rest) :=
  step_cons h

theorem runCommand_of_some {w : Word} {i : Instr} (h : decode w = some i) (s : State) :
    runCommand w s = exec i s := by
  simp [runCommand, h]

theorem runCommand_of_none {w : Word} (h : decode w = none) (s : State) : runCommand w s = execIllegal w s := by
  simp [runCommand, h]

/-- A word that is no command raises IllegalCommand with the word (R73, R186). -/
theorem runCommand_illegal_of_clear {w : Word} {s : State} (hw : decode w = none) (hs : s.err = 0#3) :
    runCommand w s = .next (s.setLatch 5#3 w) := by
  rw [runCommand_of_none hw, execIllegal, whenClear_of_clear hs, raise_of_clear hs]
  rfl

/-- A step that writes no command to CMD with no error latched only latches IllegalCommand (R73, R186). -/
theorem step_illegal_of_clear {s : State} {w : Word} {rest : List HostAction} (hscript : s.script = .wr 0 w :: rest)
    (hs : s.err = 0#3) (hw : decode w = none) : step s = .next ((s.setScript rest).setLatch 5#3 w) := by
  rw [step_wr_cmd hscript]
  exact runCommand_illegal_of_clear hw hs

/-- While an error is latched a command other than CLRERR does nothing (R188). -/
theorem exec_of_latched {i : Instr} {s : State} (hs : s.err ≠ 0#3) (hi : i ≠ .clrerr) : exec i s = .next s := by
  cases i
  case clrerr => contradiction
  all_goals exact congrArg Host.Outcome.next (whenClear_of_latched hs)

/-- While an error is latched a word other than CLRERR's does nothing, illegal words among them (R188). -/
theorem runCommand_of_latched {w : Word} {s : State} (hs : s.err ≠ 0#3) (hw : w ≠ encode .clrerr) :
    runCommand w s = .next s := by
  cases hdecode : decode w with
  | none => rw [runCommand_of_none hdecode, execIllegal, whenClear_of_latched hs]
  | some i =>
    rw [runCommand_of_some hdecode]
    refine exec_of_latched hs ?_
    rintro rfl
    exact hw (encode_of_decode hdecode).symm

/-- CLRERR's word clears the latch, whatever it holds (R171). -/
theorem runCommand_clrerr (s : State) : runCommand (encode .clrerr) s = .next (s.setLatch 0#3 0#32) :=
  runCommand_of_some (decode_encode .clrerr) s

end Sys2Proof.Machine

/-! ### The statements of the family `30_encoding.md` -/

namespace Sys2Proof.Proofs

open Sys2Proof Sys2Proof.Machine

/-- Settles O3: the words that decode are the words of the fourteen commands, and a ZERO bit keeps a word from
decoding. -/
theorem fourteenWordsAreCommands : Obligations.FourteenWordsAreCommands := by
  refine ⟨decode_isSome_iff, ⟨commands.map encode, by decide, rfl, decode_isSome_iff_mem⟩, ?_⟩
  intro s w rest hscript hs hzero
  exact step_illegal_of_clear hscript hs (decode_eq_none_of_zeroField_ne hzero)

/-- Settles O5, one case of R77 after the other. -/
theorem commandWriteFollowsDecodeOrder : Obligations.CommandWriteFollowsDecodeOrder := by
  intro s w rest hscript
  refine ⟨?clrerr, ?gated, ?zero, ?reserved, ?command⟩
  case clrerr =>
    rintro - rfl
    rw [step_wr_cmd hscript]
    exact runCommand_clrerr _
  case gated =>
    intro hs hw
    rw [step_wr_cmd hscript]
    exact runCommand_of_latched hs hw
  case zero =>
    intro hs hzero
    exact step_illegal_of_clear hscript hs (decode_eq_none_of_zeroField_ne hzero)
  case reserved =>
    intro hs _ hop
    exact step_illegal_of_clear hscript hs (decode_eq_none_of_reserved hop)
  case command =>
    intro _ hzero hD hE
    obtain ⟨i, hi⟩ := Option.isSome_iff_exists.mp ((decode_isSome_iff_fields w).mpr ⟨hzero, hD, hE⟩)
    refine ⟨i, encode_of_decode hi, ?_⟩
    rw [step_wr_cmd hscript, runCommand_of_some hi]

/-- Settles O7: such a word does not decode, so it raises. -/
theorem illegalWordRaises : Obligations.IllegalWordRaises := by
  intro s w hs hw
  exact step_illegal_of_clear (State.setScript_script s _) hs ((decode_eq_none_iff w).mpr hw)

/-- Settles O1: fourteen words are the words of the commands, and three are no command's. -/
theorem specWordsDecode : Obligations.SpecWordsDecode :=
  ⟨decode_encode .nop, decode_encode .split, decode_encode .merge, decode_encode .pack, decode_encode .unpack,
    decode_encode .ldpix, decode_encode .stpix, decode_encode .inext, decode_encode .compose, decode_encode .parse,
    decode_encode .embed, decode_encode .extract, decode_encode .irst, decode_encode .clrerr,
    (decode_eq_none_iff _).mpr (by decide), (decode_eq_none_iff _).mpr (by decide),
    (decode_eq_none_iff _).mpr (by decide)⟩

end Sys2Proof.Proofs

/-! ### The filename field (R93, R94) -/

namespace Sys2Proof.Machine

/-- Of the `w` bytes of `f`, those that R94 keeps are the `n` bytes from `a` on: all before and after them are
underscores, the first and the last of them are not. -/
def KeptRun (f : Nat → Byte) (w a n : Nat) : Prop :=
  a + n ≤ w ∧ (∀ j < a, f j = Config.underscore) ∧ (∀ j, a + n ≤ j → j < w → f j = Config.underscore) ∧
    (0 < n → f a ≠ Config.underscore ∧ f (a + n - 1) ≠ Config.underscore)

theorem exists_keptRun (f : Nat → Byte) : ∃ a n, KeptRun f 20 a n := by
  rcases stripUs_cases f with ⟨hall, _⟩ | ⟨a, n, _, hfits, hbefore, hafter, hfirst, hlast, _⟩
  · exact ⟨0, 0, by omega, by omega, fun j _ hj => hall j hj, by omega⟩
  · exact ⟨a, n, hfits, hbefore, hafter, fun _ => ⟨hfirst, hlast⟩⟩

/-- `strip_us` answers the bytes that are kept, in order (R94). -/
theorem KeptRun.stripUs_eq {f : Nat → Byte} {a n : Nat} (h : KeptRun f 20 a n) :
    stripUs f = (List.range n).map fun j => f (a + j) := by
  obtain ⟨hfits, hbefore, hafter, hends⟩ := h
  rcases Nat.eq_zero_or_pos n with rfl | hn
  · refine stripUs_of_none fun j hj => ?_
    rcases Nat.lt_or_ge j a with hja | haj
    · exact hbefore j hja
    · exact hafter j haj hj
  · obtain ⟨hfirst, hlast⟩ := hends hn
    exact stripUs_of_kept hn hfits hbefore hafter hfirst hlast

theorem KeptRun.congr {f g : Nat → Byte} {w a n : Nat} (h : KeptRun f w a n) (he : ∀ j < w, f j = g j) :
    KeptRun g w a n := by
  obtain ⟨hfits, hbefore, hafter, hends⟩ := h
  refine ⟨hfits, fun j hj => ?_, fun j haj hj => ?_, fun hn => ?_⟩
  · rw [← he j (by omega)]
    exact hbefore j hj
  · rw [← he j hj]
    exact hafter j haj hj
  · rw [← he a (by omega), ← he (a + n - 1) (by omega)]
    exact hends hn

/-- Only the 20 bytes of the field count. -/
theorem stripUs_congr {f g : Nat → Byte} (he : ∀ j < 20, f j = g j) : stripUs f = stripUs g := by
  obtain ⟨a, n, h⟩ := exists_keptRun f
  have ⟨hfits, _⟩ := h
  rw [h.stripUs_eq, (h.congr he).stripUs_eq]
  exact List.map_congr_left fun j hj => he _ (by have := List.mem_range.mp hj; omega)

/-- A name of 20 bytes or more gives its last 20 bytes (R93). -/
theorem name20_of_ge {L : Nat} (hL : 20 ≤ L) (s : Nat → Byte) (j : Nat) : name20 s L j = s (L - 20 + j) := if_pos hL

/-- The padding of a short name (R93). -/
theorem name20_pad {L j : Nat} (hj : j < 20 - L) (s : Nat → Byte) : name20 s L j = Config.underscore := by
  rw [name20, if_neg (by omega), if_pos hj]

/-- The bytes of a name that fits, right-aligned (R93). -/
theorem name20_copy {L : Nat} (hL : L ≤ 20) (s : Nat → Byte) (i : Nat) : name20 s L (20 - L + i) = s i := by
  rcases Nat.eq_or_lt_of_le hL with rfl | hlt
  · rw [name20_of_ge (by omega), Nat.sub_self, Nat.zero_add, Nat.zero_add]
  · rw [name20, if_neg (by omega), if_neg (by omega), Nat.add_sub_cancel_left]

/-- Right-aligning a name that fits moves the bytes that are kept and keeps no more of them. -/
theorem KeptRun.name20 {s : Nat → Byte} {L a n : Nat} (hL : L ≤ 20) (h : KeptRun s L a n) :
    KeptRun (name20 s L) 20 (20 - L + a) n := by
  obtain ⟨hfits, hbefore, hafter, hends⟩ := h
  refine ⟨by omega, fun j hj => ?before, fun j haj hj => ?after, fun hn => ?ends⟩
  case before =>
    rcases Nat.lt_or_ge j (20 - L) with hpad | hname
    · exact name20_pad hpad s
    · obtain ⟨i, rfl⟩ := Nat.exists_eq_add_of_le hname
      rw [name20_copy hL]
      exact hbefore i (by omega)
  case after =>
    obtain ⟨i, rfl⟩ := Nat.exists_eq_add_of_le (show 20 - L ≤ j by omega)
    rw [name20_copy hL]
    exact hafter i (by omega) (by omega)
  case ends =>
    rw [Nat.add_assoc, Nat.add_sub_assoc (by omega), name20_copy hL, name20_copy hL]
    exact hends hn

/-- What comes back of a name that fits: the bytes of it that are kept (R99). -/
theorem stripUs_name20_of_keptRun {s : Nat → Byte} {L a n : Nat} (hL : L ≤ 20) (h : KeptRun s L a n) :
    stripUs (name20 s L) = (List.range n).map fun j => s (a + j) := by
  rw [(h.name20 hL).stripUs_eq]
  exact List.map_congr_left fun j _ => by rw [Nat.add_assoc, name20_copy hL]

/-- A name of only underscores gives a field of only underscores (R93). -/
theorem name20_of_underscores {s : Nat → Byte} {L : Nat} (h : ∀ j < L, s j = Config.underscore) {j : Nat}
    (hj : j < 20) : name20 s L j = Config.underscore := by
  rcases Nat.lt_or_ge j (20 - L) with hpad | hname
  · exact name20_pad hpad s
  · rcases Nat.le_total L 20 with hL | hL
    · obtain ⟨i, rfl⟩ := Nat.exists_eq_add_of_le hname
      rw [name20_copy hL]
      exact h i (by omega)
    · rw [name20_of_ge hL]
      exact h _ (by omega)

/-- Exactly the names that fit and neither begin nor end with an underscore come back (R98, R99). -/
theorem stripUs_name20_eq_iff (s : Nat → Byte) (L : Nat) : stripUs (name20 s L) = (List.range L).map s ↔
    L ≤ 20 ∧ (0 < L → s 0 ≠ Config.underscore ∧ s (L - 1) ≠ Config.underscore) := by
  constructor
  · intro heq
    obtain ⟨a, n, h⟩ := exists_keptRun (name20 s L)
    rw [h.stripUs_eq] at heq
    obtain rfl : n = L := by simpa using congrArg List.length heq
    have hbytes : ∀ j < n, name20 s n (a + j) = s j := fun j hj =>
      List.map_inj_left.mp heq j (List.mem_range.mpr hj)
    have ⟨hfits, _, _, hkept⟩ := h
    refine ⟨by omega, fun hn => ?_⟩
    rw [← hbytes 0 hn, ← hbytes (n - 1) (by omega), ← Nat.add_sub_assoc hn]
    exact hkept hn
  · rintro ⟨hL, hends⟩
    have h : KeptRun s L 0 L := ⟨by omega, by omega, by omega, by simpa using hends⟩
    simpa using stripUs_name20_of_keptRun hL h

/-! ### The header (R91, R92, R96, R101) -/

/-- The decimal digits of a number of at most eight digits, weighed (R91, R92). -/
theorem sum_digits_eight {v : Nat} (hv : v < 10 ^ 8) :
    v / 10 ^ 7 % 10 * 10000000 + v / 10 ^ 6 % 10 * 1000000 + v / 10 ^ 5 % 10 * 100000 + v / 10 ^ 4 % 10 * 10000 +
      v / 10 ^ 3 % 10 * 1000 + v / 10 ^ 2 % 10 * 100 + v / 10 ^ 1 % 10 * 10 + v / 10 ^ 0 % 10 = v := by
  have hsum := Nat.mod_eq_of_lt hv
  simp only [Nat.mod_pow_succ, Nat.pow_zero, Nat.mod_one] at hsum
  simp only [Nat.reducePow] at hsum ⊢
  omega

/-- `undec8` reads what `dec8` writes (R92). -/
theorem undec8_of_dec8 {d : Nat → Byte} {v : Nat} (hv : v ≤ Config.sizeMax) (hd : ∀ k < 8, d k = dec8 v k) :
    undec8 d = .ok v := by
  rw [undec8_of_digits fun j hj => by rw [hd j hj]; exact dec8_isDigit v j, hd 0 (by decide), hd 1 (by decide),
    hd 2 (by decide), hd 3 (by decide), hd 4 (by decide), hd 5 (by decide), hd 6 (by decide), hd 7 (by decide)]
  simp only [dec8_toNat, Nat.add_sub_cancel_left, Nat.reduceSub]
  exact congrArg Except.ok (sum_digits_eight (Nat.lt_of_le_of_lt hv (by norm_num)))

/-- `undec8` states no number of more than eight digits (R92). -/
theorem undec8_le {d : Nat → Byte} {v : Nat} (h : undec8 d = .ok v) : v ≤ Config.sizeMax := by
  have hdigits := digits_of_undec8_ok h
  have hle : ∀ j < 8, (d j).toNat - 0x30 ≤ 9 := fun j hj => by
    have := (isDigit_iff _).mp (hdigits j hj)
    omega
  obtain rfl := Except.ok.inj ((undec8_of_digits hdigits).symm.trans h)
  have h0 := hle 0 (by decide)
  have h1 := hle 1 (by decide)
  have h2 := hle 2 (by decide)
  have h3 := hle 3 (by decide)
  have h4 := hle 4 (by decide)
  have h5 := hle 5 (by decide)
  have h6 := hle 6 (by decide)
  have h7 := hle 7 (by decide)
  simp only [Config.sizeMax]
  omega

theorem parseHdr_of_bad {h : Nat → Byte} {k : Nat} (h0 : h 0 = Config.startMark) (h29 : h 29 = Config.endMark)
    (hu : undec8 (fun k => h (1 + k)) = .error k) : parseHdr h = .error (1 + k) := by
  rw [parseHdr_of_marks h0 h29, hu]

theorem parseHdr_of_size {h : Nat → Byte} {v : Nat} (h0 : h 0 = Config.startMark) (h29 : h 29 = Config.endMark)
    (hu : undec8 (fun k => h (1 + k)) = .ok v) : parseHdr h = .ok (v, stripUs fun j => h (9 + j)) := by
  rw [parseHdr_of_marks h0 h29, hu]

/-- Every header COMPOSE writes parses (R101). -/
theorem parseHdr_composedByte {size : Nat} (hsize : size ≤ Config.sizeMax) (s : Nat → Byte) (L : Nat) :
    parseHdr (composedByte size s L) = .ok (size, stripUs (name20 s L)) := by
  have hu : undec8 (fun k => composedByte size s L (1 + k)) = .ok size :=
    undec8_of_dec8 hsize fun _ hk => composedByte_digit size s L hk
  rw [parseHdr_of_size rfl rfl hu, stripUs_congr fun _ hj => composedByte_name size s L hj]

theorem parseHdr_bufRead_hdrOf (f : Nat → Byte) : parseHdr (bufRead (hdrOf f)) = parseHdr f :=
  parseHdr_congr fun _ hj => bufRead_hdrOf f hj

/-! ### The two commands with no error latched (R95, R97) -/

section
variable {s : State} (hs : s.err = 0#3)
include hs

theorem exec_compose_of_fits (hsize : s.size.toNat ≤ Config.sizeMax) :
    exec .compose s = .next (s.setHdr (hdrOf (composedByte s.size.toNat (bufRead s.name) s.nlen.toNat))) := by
  rw [exec, execCompose, whenClear_of_clear hs, composeHeader, if_neg (by omega)]

theorem exec_compose_of_overflow (hsize : Config.sizeMax < s.size.toNat) :
    exec .compose s = .next (s.setLatch 1#3 s.size) := by
  rw [exec, execCompose, whenClear_of_clear hs, composeHeader, if_pos hsize, raise_of_clear hs, errorCode]

theorem exec_parse_of_error {j : Nat} (hp : parseHdr (bufRead s.hdr) = .error j) :
    exec .parse s = .next (s.setLatch 3#3 (BitVec.ofNat 32 j)) := by
  rw [exec, execParse, whenClear_of_clear hs, parseHeader, hp]
  exact congrArg Host.Outcome.next (raise_of_clear hs)

theorem exec_parse_of_ok {v : Nat} {name : List Byte} (hp : parseHdr (bufRead s.hdr) = .ok (v, name)) :
    exec .parse s = .next (deliverHeader v name s) := by
  rw [exec, execParse, whenClear_of_clear hs, parseHeader, hp]

/-- PARSE on a header that COMPOSE wrote (R101). -/
theorem exec_parse_of_composed {size L : Nat} {f : Nat → Byte} (hsize : size ≤ Config.sizeMax)
    (hhdr : s.hdr = hdrOf (composedByte size f L)) :
    exec .parse s = .next (deliverHeader size (stripUs (name20 f L)) s) :=
  exec_parse_of_ok hs (by rw [hhdr, parseHdr_bufRead_hdrOf, parseHdr_composedByte hsize])

end

/-- What COMPOSE leaves for a PARSE after it (R95). -/
theorem err_hdr_of_exec_compose {s t : State} (hs : s.err = 0#3) (hsize : s.size.toNat ≤ Config.sizeMax)
    (hcompose : exec .compose s = .next t) :
    t.err = 0#3 ∧ t.hdr = hdrOf (composedByte s.size.toNat (bufRead s.name) s.nlen.toNat) := by
  have hnext := Host.Outcome.next.inj ((exec_compose_of_fits hs hsize).symm.trans hcompose)
  rw [← hnext, State.setHdr_err, State.setHdr_hdr]
  exact ⟨hs, rfl⟩

theorem deliverHeader_nlen_toNat {l : List Byte} (hl : l.length ≤ 255) (v : Nat) (s : State) :
    (deliverHeader v l s).nlen.toNat = l.length := by
  rw [deliverHeader_nlen, BitVec.toNat_ofNat, Nat.mod_eq_of_lt (by omega)]

theorem bufRead_bufStore_map {m n j : Nat} (b : Vector Byte m) (f : Nat → Byte) (hj : j < n) (hn : n ≤ m) :
    bufRead (bufStore b ((List.range n).map f)) j = f j := by
  rw [bufRead_bufStore, if_pos ⟨by omega, by simpa using hj⟩]
  simp [hj]

end Sys2Proof.Machine

/-! ### The statements of the family `40_header_codec.md` -/

namespace Sys2Proof.Proofs

open Sys2Proof Sys2Proof.Machine

/-- Settles O28: the header is the composed bytes, read off one by one. -/
theorem composeBuildsTheHeader : Obligations.ComposeBuildsTheHeader := by
  refine ⟨decode_encode .compose, fun s hs => ⟨fun hsize => ?_, exec_compose_of_overflow hs⟩⟩
  have hname : ∀ j < 20, bufRead (hdrOf (composedByte s.size.toNat (bufRead s.name) s.nlen.toNat)) (9 + j) =
      name20 (bufRead s.name) s.nlen.toNat j := fun j hj => by
    rw [bufRead_hdrOf _ (by omega), composedByte_name _ _ _ hj]
  refine ⟨_, exec_compose_of_fits hs hsize, bufRead_hdrOf _ (by decide), bufRead_hdrOf _ (by decide), ?digits, ?long,
    ?padding, ?short⟩
  case digits =>
    intro k hk
    rw [bufRead_hdrOf _ (by omega), composedByte_digit _ _ _ hk, dec8_toNat]
  case long =>
    intro hL j hj
    rw [hname j hj, name20_of_ge hL]
  case padding =>
    intro _ j hj
    rw [hname j (by omega), name20_pad hj]
  case short =>
    intro hL j hLj hj
    obtain ⟨i, rfl⟩ := Nat.exists_eq_add_of_le hLj
    rw [hname _ hj, name20_copy (by omega), Nat.add_sub_cancel_left]

/-- Settles O29, one outcome of the header's checks after the other. -/
theorem parseDeliversOrRaises : Obligations.ParseDeliversOrRaises := by
  refine ⟨decode_encode .parse, fun s hs => ⟨?start, ?stop, ?digit, ?good⟩⟩
  case start => exact fun h0 => exec_parse_of_error hs (parseHdr_of_start h0)
  case stop => exact fun h0 h29 => exec_parse_of_error hs (parseHdr_of_end h0 h29)
  case digit =>
    intro k hk h0 h29 hdigits hbad
    have hbad' : isDigit (bufRead s.hdr (1 + k)) = false := by
      rw [← Bool.not_eq_true, isDigit_iff]
      omega
    exact exec_parse_of_error hs (parseHdr_of_bad h0 h29
      (undec8_of_bad hk (fun j hj => (isDigit_iff _).mpr (hdigits j hj)) hbad'))
  case good =>
    intro h0 h29 hdigits
    have hu := undec8_of_digits (d := fun k => bufRead s.hdr (1 + k)) fun j hj => (isDigit_iff _).mpr (hdigits j hj)
    have hp := parseHdr_of_size h0 h29 hu
    obtain ⟨a, n, hrun⟩ := exists_keptRun fun j => bufRead s.hdr (9 + j)
    rw [hrun.stripUs_eq] at hp
    have ⟨hfits, hbefore, hafter, hends⟩ := hrun
    have hexec := exec_parse_of_ok hs hp
    rw [deliverHeader, List.length_map, List.length_range] at hexec
    refine ⟨_, _, a, n, hexec, ?size, hfits, hbefore, hafter, hends,
      fun j hj => bufRead_bufStore_map _ _ hj (by omega), fun j hj => bufRead_bufStore_of_le _ (by simpa using hj)⟩
    rw [BitVec.toNat_ofNat, Nat.mod_eq_of_lt (Nat.lt_of_le_of_lt (undec8_le hu) (by norm_num))]

/-- Settles O31: PARSE is given the bytes COMPOSE worked out. -/
theorem composedHeadersParse : Obligations.ComposedHeadersParse := by
  intro s t hs hsize hcompose
  obtain ⟨ht, hhdr⟩ := err_hdr_of_exec_compose hs hsize hcompose
  refine ⟨?parse, ?start, ?stop, ?digits, _, exec_parse_of_composed ht hsize hhdr, ht⟩
  case parse => rw [hhdr, parseHdr_bufRead_hdrOf, parseHdr_composedByte hsize]
  case start => rw [hhdr, bufRead_hdrOf _ (by decide)]; rfl
  case stop => rw [hhdr, bufRead_hdrOf _ (by decide)]; rfl
  case digits =>
    intro k h1 h8
    obtain ⟨i, rfl⟩ := Nat.exists_eq_add_of_le h1
    rw [hhdr, bufRead_hdrOf _ (by omega), composedByte_digit _ _ _ (by omega), ← isDigit_iff]
    exact dec8_isDigit _ _

/-- Settles O32: PARSE delivers the stripped field, which for such a name is the name. -/
theorem headerRoundTrip : Obligations.HeaderRoundTrip := by
  intro s t u v l nm hs hsize hL hends hcompose hparse
  obtain ⟨ht, hhdr⟩ := err_hdr_of_exec_compose hs hsize hcompose
  have hexec := exec_parse_of_composed (s := ((t.setSize v).setNlen l).setName nm) ht hsize hhdr
  obtain rfl := Host.Outcome.next.inj (hparse.symm.trans hexec)
  rw [(stripUs_name20_eq_iff _ _).mpr ⟨hL, hends⟩]
  exact ⟨by simpa using ht, by simp, by simp, fun j hj => bufRead_bufStore_map _ _ hj (by omega)⟩

/-- Settles O33: what comes back is the stripped field, and which bytes of the name that field keeps. -/
theorem namesThatDoNotComeBack : Obligations.NamesThatDoNotComeBack := by
  refine ⟨?back, stripUs_name20_eq_iff, ?underscores, ?short, ?long⟩
  case back =>
    intro s t u hs hsize hcompose hparse
    obtain ⟨ht, hhdr⟩ := err_hdr_of_exec_compose hs hsize hcompose
    obtain rfl := Host.Outcome.next.inj ((exec_parse_of_composed ht hsize hhdr).symm.trans hparse)
    have hlen := stripUs_length_le (name20 (bufRead s.name) s.nlen.toNat)
    rw [deliverHeader_nlen_toNat (by omega)]
    exact ⟨rfl, fun j hj => bufRead_bufStore_of_lt _ hj (by omega)⟩
  case underscores => exact fun s L h => stripUs_of_none fun j hj => name20_of_underscores h hj
  case short =>
    intro s L a n hL hn hfits hbefore hafter hfirst hlast
    exact stripUs_name20_of_keptRun hL ⟨hfits, hbefore, hafter, fun _ => ⟨hfirst, hlast⟩⟩
  case long => exact fun s L hL => congrArg stripUs (funext (name20_of_ge (by omega) s))

end Sys2Proof.Proofs

/-! ### The values of the bit groups and of the channels (R30, R110 to R117) -/

namespace Sys2Proof.Machine

/-- OR with a value that fits the place a left shift cleared is addition: the two share no bit (R122). -/
theorem toNat_shiftLeft_or {w k : Nat} (hk : k ≤ w) (c : BitVec w) {g : BitVec w} (hg : g.toNat < 2 ^ k) :
    ((c <<< k) ||| g).toNat = c.toNat * 2 ^ k % 2 ^ w + g.toNat := by
  have hdvd : 2 ^ k ∣ c.toNat * 2 ^ k % 2 ^ w :=
    (Nat.dvd_mod_iff (pow_dvd_pow 2 hk)).mpr (Nat.dvd_mul_left _ _)
  obtain ⟨q, hq⟩ := hdvd
  rw [BitVec.toNat_or, BitVec.toNat_shiftLeft, Nat.shiftLeft_eq, hq, Nat.two_pow_add_eq_or_of_lt hg]

/-! #### TRIPLE -/

theorem tripleG0_toNat (t : Triple) : (tripleG0 t).toNat = t.toNat / 32 := by
  have := t.isLt
  simp only [tripleG0, BitVec.extractLsb'_toNat, Nat.shiftRight_eq_div_pow]
  omega

theorem tripleG1_toNat (t : Triple) : (tripleG1 t).toNat = t.toNat / 4 % 8 := by
  simp only [tripleG1, BitVec.extractLsb'_toNat, Nat.shiftRight_eq_div_pow]

theorem tripleG2_toNat (t : Triple) : (tripleG2 t).toNat = t.toNat % 4 := by
  simp [tripleG2]

/-! #### Split and merge -/

theorem group0_toNat (n : Byte) : (group0 n).toNat = n.toNat / 32 := by
  simp [group0, Nat.shiftRight_eq_div_pow]

theorem group1_toNat (n : Byte) : (group1 n).toNat = n.toNat / 4 % 8 := by
  rw [group1, BitVec.toNat_and, BitVec.toNat_ushiftRight, Nat.shiftRight_eq_div_pow]
  exact Nat.and_two_pow_sub_one_eq_mod _ 3

theorem group2_toNat (n : Byte) : (group2 n).toNat = n.toNat % 4 := by
  rw [group2, BitVec.toNat_and]
  exact Nat.and_two_pow_sub_one_eq_mod _ 2

/-- A group fits the free bits of its channel (R115). -/
theorem group0_lt (n : Byte) : (group0 n).toNat < 2 ^ freeBits 0 := by
  have hn := n.isLt
  rw [group0_toNat, freeBits]
  omega

theorem group1_lt (n : Byte) : (group1 n).toNat < 2 ^ freeBits 1 := by
  rw [group1_toNat]
  exact Nat.mod_lt _ (by decide)

theorem group2_lt (n : Byte) : (group2 n).toNat < 2 ^ freeBits 2 := by
  rw [group2_toNat]
  exact Nat.mod_lt _ (by decide)

/-- `merge` as a number, modulo 256 where g0 is out of range (R111, R114). -/
theorem mergeGroups_toNat (g0 : Byte) {g1 g2 : Byte} (h1 : g1.toNat < 8) (h2 : g2.toNat < 4) :
    (mergeGroups g0 g1 g2).toNat = (g0.toNat * 32 + g1.toNat * 4 + g2.toNat) % 256 := by
  rw [mergeGroups, toNat_shiftLeft_or (by decide) _ h2, toNat_shiftLeft_or (by decide) _ h1]
  omega

/-- Merging the groups of a byte gives the byte (R112). -/
theorem mergeGroups_groups (n : Byte) : mergeGroups (group0 n) (group1 n) (group2 n) = n := by
  have h1 := group1_toNat n
  have h2 := group2_toNat n
  apply BitVec.eq_of_toNat_eq
  rw [mergeGroups_toNat _ (by omega) (by omega), group0_toNat]
  omega

/-- Splitting a merge of groups in range gives the groups (R112). -/
theorem groups_mergeGroups {g0 g1 g2 : Byte} (h0 : g0.toNat < 8) (h1 : g1.toNat < 8) (h2 : g2.toNat < 4) :
    group0 (mergeGroups g0 g1 g2) = g0 ∧ group1 (mergeGroups g0 g1 g2) = g1 ∧
      group2 (mergeGroups g0 g1 g2) = g2 := by
  have hmerge := mergeGroups_toNat g0 h1 h2
  simp only [← BitVec.toNat_inj, group0_toNat, group1_toNat, group2_toNat]
  omega

/-- The triple of a byte is the byte zero-extended (R113). -/
theorem splitByte_eq_setWidth (n : Byte) : splitByte n = n.setWidth 10 := by
  ext i hi
  interval_cases i <;> simp [splitByte, tripleOf, group0, group1, group2]

/-- The byte of a triple is its low 8 bits (R114). -/
theorem mergeTriple_eq_setWidth (t : Triple) : mergeTriple t = t.setWidth 8 := by
  apply byte_ext <;> simp [mergeTriple, mergeGroups, tripleG0, tripleG1, tripleG2]

/-! #### One lane of pack and unpack, for every channel number -/

theorem freeBits_eq (ch : Nat) : freeBits ch = 3 ∨ freeBits ch = 2 := by
  unfold freeBits
  split <;> simp

section

variable {ch : Nat} {c g m : Byte}

/-- One lane of `pack` as a number: the high bits of the channel and the group (R116). -/
theorem packChannel_toNat (hg : g.toNat < 2 ^ freeBits ch) :
    (packChannel ch c g).toNat = c.toNat / 2 ^ freeBits ch * 2 ^ freeBits ch + g.toNat := by
  have hc := c.isLt
  have hk := freeBits_eq ch
  rw [packChannel, toNat_shiftLeft_or (by omega) _ hg, BitVec.toNat_ushiftRight, Nat.shiftRight_eq_div_pow,
    Nat.mod_eq_of_lt ((Nat.div_mul_le_self _ _).trans_lt hc)]

/-- One lane of `unpack` as a number: the low bits of the channel (R117). -/
theorem unpackChannel_toNat : (unpackChannel ch c).toNat = c.toNat % 2 ^ freeBits ch := by
  rw [unpackChannel, BitVec.toNat_and, ← Nat.and_two_pow_sub_one_eq_mod]
  rcases freeBits_eq ch with h | h <;> rw [h] <;> rfl

theorem unpackChannel_lt : (unpackChannel ch c).toNat < 2 ^ freeBits ch := by
  rw [unpackChannel_toNat]
  exact Nat.mod_lt _ (Nat.two_pow_pos _)

/-- A lane unpacks to the group packed into it. -/
theorem unpackChannel_packChannel (hg : g.toNat < 2 ^ freeBits ch) :
    unpackChannel ch (packChannel ch c g) = g := by
  apply BitVec.eq_of_toNat_eq
  rw [unpackChannel_toNat, packChannel_toNat hg, Nat.mul_add_mod_of_lt hg]

/-- Packing changes the free bits of the channel only. -/
theorem packChannel_shiftRight (hg : g.toNat < 2 ^ freeBits ch) :
    packChannel ch c g >>> freeBits ch = c >>> freeBits ch := by
  apply BitVec.eq_of_toNat_eq
  rw [BitVec.toNat_ushiftRight, BitVec.toNat_ushiftRight, packChannel_toNat hg, Nat.shiftRight_eq_div_pow,
    Nat.shiftRight_eq_div_pow, Nat.mul_comm, Nat.mul_add_div (Nat.two_pow_pos _), Nat.div_eq_of_lt hg, Nat.add_zero]

/-- The high bits of a channel are read off the same after packing (R120). -/
theorem packChannel_extractLsb' (hg : g.toNat < 2 ^ freeBits ch) (len : Nat) :
    (packChannel ch c g).extractLsb' (freeBits ch) len = c.extractLsb' (freeBits ch) len := by
  rw [← BitVec.setWidth_ushiftRight_eq_extractLsb, packChannel_shiftRight hg,
    BitVec.setWidth_ushiftRight_eq_extractLsb]

/-- A lane moves its channel by less than the weight of the lowest bit it keeps (R118). -/
theorem packChannel_near (hg : g.toNat < 2 ^ freeBits ch) :
    (packChannel ch c g).toNat < c.toNat + 2 ^ freeBits ch ∧
      c.toNat < (packChannel ch c g).toNat + 2 ^ freeBits ch := by
  have hsplit := Nat.div_add_mod' c.toNat (2 ^ freeBits ch)
  have hlow := Nat.mod_lt c.toNat (Nat.two_pow_pos (freeBits ch))
  rw [packChannel_toNat hg]
  omega

/-- A lane reads the channel's high bits only, so what was packed before does not matter. -/
theorem packChannel_packChannel (hm : m.toNat < 2 ^ freeBits ch) :
    packChannel ch (packChannel ch c m) g = packChannel ch c g := by
  rw [packChannel, packChannel_shiftRight hm, packChannel]

/-- Packing the group a lane already holds changes nothing. -/
theorem packChannel_unpackChannel : packChannel ch c (unpackChannel ch c) = c := by
  apply BitVec.eq_of_toNat_eq
  rw [packChannel_toNat unpackChannel_lt, unpackChannel_toNat, Nat.div_add_mod']

end

/-! #### Pack and unpack -/

/-- `pack` as one 24-bit number (R118). -/
theorem packPixel_eq_slices (p : Pixel) (n : Byte) : packPixel p n =
    ((p.extractLsb' 18 6).setWidth 24 <<< 18) ||| ((n.extractLsb' 0 2).setWidth 24 <<< 16) |||
      ((p.extractLsb' 11 5).setWidth 24 <<< 11) ||| ((n.extractLsb' 2 3).setWidth 24 <<< 8) |||
      ((p.extractLsb' 3 5).setWidth 24 <<< 3) ||| (n.extractLsb' 5 3).setWidth 24 := by
  apply pixel_ext
  · rw [pixelCh0_packPixel]
    apply byte_ext <;> simp [packChannel, freeBits, group0, pixelCh0]
  · rw [pixelCh1_packPixel]
    apply byte_ext <;> simp [packChannel, freeBits, group1, pixelCh1]
  · rw [pixelCh2_packPixel]
    apply byte_ext <;> simp [packChannel, freeBits, group2, pixelCh2]

/-- `unpack` as one number (R119). -/
theorem unpackPixel_eq_slices (p : Pixel) : unpackPixel p =
    ((p.extractLsb' 0 3).setWidth 8 <<< 5) ||| ((p.extractLsb' 8 3).setWidth 8 <<< 2) |||
      (p.extractLsb' 16 2).setWidth 8 := by
  rw [unpackPixel_masks]
  apply byte_ext <;> simp [mergeGroups, pixelCh0, pixelCh1, pixelCh2]

/-- A packed pixel unpacks to the byte (R120). -/
theorem unpackPixel_packPixel (p : Pixel) (n : Byte) : unpackPixel (packPixel p n) = n := by
  rw [unpackPixel, pixelCh0_packPixel, pixelCh1_packPixel, pixelCh2_packPixel,
    unpackChannel_packChannel (group0_lt n), unpackChannel_packChannel (group1_lt n),
    unpackChannel_packChannel (group2_lt n), mergeGroups_groups]

/-- The groups of the byte unpacked are what the lanes hold (R117). -/
theorem groups_unpackPixel (p : Pixel) : group0 (unpackPixel p) = unpackChannel 0 (pixelCh0 p) ∧
    group1 (unpackPixel p) = unpackChannel 1 (pixelCh1 p) ∧ group2 (unpackPixel p) = unpackChannel 2 (pixelCh2 p) :=
  groups_mergeGroups unpackChannel_lt unpackChannel_lt unpackChannel_lt

/-- The byte packed last wins (R120). -/
theorem packPixel_packPixel (p : Pixel) (m n : Byte) : packPixel (packPixel p m) n = packPixel p n := by
  apply pixel_ext
  · simp only [pixelCh0_packPixel, packChannel_packChannel (group0_lt m)]
  · simp only [pixelCh1_packPixel, packChannel_packChannel (group1_lt m)]
  · simp only [pixelCh2_packPixel, packChannel_packChannel (group2_lt m)]

/-- Packing the byte a pixel already holds changes nothing (R120). -/
theorem packPixel_unpackPixel (p : Pixel) : packPixel p (unpackPixel p) = p := by
  obtain ⟨h0, h1, h2⟩ := groups_unpackPixel p
  apply pixel_ext
  · rw [pixelCh0_packPixel, h0, packChannel_unpackChannel]
  · rw [pixelCh1_packPixel, h1, packChannel_unpackChannel]
  · rw [pixelCh2_packPixel, h2, packChannel_unpackChannel]

/-! #### The commands, with no error latched -/

section

variable {s : State} (h : s.err = 0#3)

include h

theorem exec_split_of_clear : exec .split s = .next (s.setTriple (s.byte.setWidth 10)) := by
  rw [exec, execSplit, whenClear_of_clear h, splitByte_eq_setWidth]

theorem exec_merge_of_clear : exec .merge s = .next (s.setByte (s.triple.setWidth 8)) := by
  rw [exec, execMerge, whenClear_of_clear h, mergeTriple_eq_setWidth]

end

end Sys2Proof.Machine

/-! ### The statements of the family `41_bit_plane.md` -/

namespace Sys2Proof.Proofs

open Sys2Proof Sys2Proof.Machine

/-- Settles O15: the triple is the byte zero-extended, and its fields are read off as numbers. -/
theorem splitWritesTheTriple : Obligations.SplitWritesTheTriple := by
  refine ⟨decode_encode .split, fun s hs => ⟨exec_split_of_clear hs, ?_⟩⟩
  have hbyte := s.byte.isLt
  have hwide : (s.byte.setWidth 10).toNat = s.byte.toNat := BitVec.toNat_setWidth_of_le (by decide)
  rw [tripleG0_toNat, tripleG1_toNat, tripleG2_toNat, hwide]
  exact ⟨rfl, by omega, rfl, rfl⟩

/-- Settles O16: the byte is the low 8 bits of the triple. -/
theorem mergeWritesTheByte : Obligations.MergeWritesTheByte := by
  refine ⟨decode_encode .merge, fun s hs => ⟨exec_merge_of_clear hs, ?_⟩⟩
  rw [BitVec.toNat_setWidth, tripleG0_toNat, tripleG1_toNat, tripleG2_toNat]
  omega

/-- Settles O17: both directions on the groups; at the commands, a byte widened to 10 bits and cut back to 8 is
the byte. -/
theorem splitAndMergeAreInverse : Obligations.SplitAndMergeAreInverse := by
  refine ⟨mergeGroups_groups, ?groups, ?commands⟩
  case groups =>
    intro g0 g1 g2 h0 h1 h2
    exact groups_mergeGroups (Nat.lt_succ_of_le h0) (Nat.lt_succ_of_le h1) (Nat.lt_succ_of_le h2)
  case commands =>
    intro s t u b hs hsplit hmerge
    obtain rfl := Host.Outcome.next.inj ((exec_split_of_clear hs).symm.trans hsplit)
    obtain rfl := Host.Outcome.next.inj ((exec_merge_of_clear (by exact hs)).symm.trans hmerge)
    change (s.byte.setWidth 10).setWidth 8 = s.byte
    rw [BitVec.setWidth_setWidth_of_le _ (by decide), BitVec.setWidth_eq]

/-- Settles O18: the six slices are the number `pack` gives, and each lane keeps the high bits of its channel. -/
theorem packWritesThePixel : Obligations.PackWritesThePixel := by
  refine ⟨decode_encode .pack, fun s hs => ⟨?slices, ?bounds⟩⟩
  case slices =>
    rw [exec_pack_of_clear hs, packPixel_eq_slices]
  case bounds =>
    intro t ht
    obtain rfl := Host.Outcome.next.inj ((exec_pack_of_clear hs).symm.trans ht)
    rw [State.setPix_pix, pixelCh0_packPixel, pixelCh1_packPixel, pixelCh2_packPixel]
    obtain ⟨h0, h0'⟩ := packChannel_near (c := pixelCh0 s.pix) (group0_lt s.byte)
    obtain ⟨h1, h1'⟩ := packChannel_near (c := pixelCh1 s.pix) (group1_lt s.byte)
    obtain ⟨h2, h2'⟩ := packChannel_near (c := pixelCh2 s.pix) (group2_lt s.byte)
    exact ⟨Nat.le_of_lt_succ h0, Nat.le_of_lt_succ h0', Nat.le_of_lt_succ h1, Nat.le_of_lt_succ h1',
      Nat.le_of_lt_succ h2, Nat.le_of_lt_succ h2'⟩

/-- Settles O19: the three slices are the number `unpack` gives. -/
theorem unpackWritesTheByte : Obligations.UnpackWritesTheByte := by
  refine ⟨decode_encode .unpack, fun s hs => ?_⟩
  rw [exec_unpack_of_clear hs, unpackPixel_eq_slices]

/-- Settles O20, law by law; the last one lane by lane. -/
theorem packAndUnpackLaws : Obligations.PackAndUnpackLaws := by
  intro p n m
  refine ⟨unpackPixel_packPixel p n, packPixel_packPixel p m n, packPixel_unpackPixel p, ?_, ?_, ?_⟩
  · rw [pixelCh0_packPixel]
    exact packChannel_extractLsb' (group0_lt n) 5
  · rw [pixelCh1_packPixel]
    exact packChannel_extractLsb' (group1_lt n) 5
  · rw [pixelCh2_packPixel]
    exact packChannel_extractLsb' (group2_lt n) 6

end Sys2Proof.Proofs

/-! ### The raster order and the iterator (R130 to R135) -/

namespace Sys2Proof.Machine

/-- The two coordinates of an index in range, as numbers (R130). -/
theorem eq_raster_iff {rows cols : Dim} {i : Nat} (hi : i < rows.toNat * cols.toNat) (row col : Dim) :
    row = rasterRow cols i ∧ col = rasterCol cols i ↔
      row.toNat = i / cols.toNat ∧ col.toNat = i % cols.toNat := by
  obtain ⟨hrow, hcol, _, _⟩ := raster_toNat hi
  rw [← hrow, ← hcol, BitVec.toNat_inj, BitVec.toNat_inj]

/-- Every pixel of the grid has an index in range: `row * COLS + col` (R130). -/
theorem raster_index_lt {rows cols row col : Dim} (hrow : row.toNat < rows.toNat) (hcol : col.toNat < cols.toNat) :
    row.toNat * cols.toNat + col.toNat < rows.toNat * cols.toNat := by
  have hlast := Nat.mul_le_mul_right cols.toNat (Nat.succ_le_of_lt hrow)
  rw [Nat.succ_mul] at hlast
  omega

/-- The pixel of the index `row * COLS + col` is the one at (row, col) (R130). -/
theorem raster_index {cols col : Dim} (row : Dim) (hcol : col.toNat < cols.toNat) :
    rasterRow cols (row.toNat * cols.toNat + col.toNat) = row ∧
      rasterCol cols (row.toNat * cols.toNat + col.toNat) = col := by
  constructor
  · rw [rasterRow, Nat.mul_comm, Nat.mul_add_div (by omega), Nat.div_eq_of_lt hcol, Nat.add_zero,
      BitVec.ofNat_toNat, BitVec.setWidth_eq]
  · rw [rasterCol, Nat.mul_add_mod_self_right, Nat.mod_eq_of_lt hcol, BitVec.ofNat_toNat, BitVec.setWidth_eq]

/-- What a write of one pixel does to every read of the carrier (R130). -/
theorem carRead_setPixelAt (cols : Dim) (m : Memory 24) (i : Nat) (p : Pixel) (row col : Dim) :
    carRead (setPixelAt cols m i p) row col =
      if row = rasterRow cols i ∧ col = rasterCol cols i then p else carRead m row col :=
  carRead_carWrite m _ _ row col p

/-! #### The commands, with no error latched -/

section

variable {s : State} (h : s.err = 0#3)

include h

theorem exec_irst_of_clear : exec .irst s = .next (s.setIdx 0#32) := by
  rw [exec, execIrst, whenClear_of_clear h]

/-- INEXT with its index as a number (R133). -/
theorem exec_inext_modulo : exec .inext s = .next (s.setIdx (BitVec.ofNat 32 ((s.idx.toNat + 1) % 2 ^ 32))) := by
  have hidx : s.idx + 1#32 = BitVec.ofNat 32 ((s.idx.toNat + 1) % 2 ^ 32) :=
    BitVec.eq_of_toNat_eq (Nat.mod_mod _ _).symm
  rw [exec_inext_of_clear h, hidx]

theorem exec_stpix_out_of_range (hr : s.npix ≤ s.idx.toNat) : exec .stpix s = .next (s.setLatch 2#3 s.idx) := by
  rw [exec, execStpix, whenClear_of_clear h, storePixel, if_pos hr, raise_of_clear h, errorCode]

end

end Sys2Proof.Machine

/-! ### The statements of the family `42_pixel_iterator.md` -/

namespace Sys2Proof.Proofs

open Sys2Proof Sys2Proof.Machine

/-- Settles O22: an index in range is below NPIX, so one more still fits 32 bits. -/
theorem iteratorStepsTheIndex : Obligations.IteratorStepsTheIndex := by
  refine ⟨decode_encode .irst, decode_encode .inext, fun s hs => ?_⟩
  have hnext := exec_inext_modulo hs
  refine ⟨exec_irst_of_clear hs, hnext, fun hr => ?_⟩
  have hfits : s.idx.toNat + 1 < 2 ^ 32 := Nat.lt_of_le_of_lt hr (npix_lt s)
  rw [Nat.mod_eq_of_lt hfits] at hnext
  exact ⟨hnext, hfits⟩

/-- Settles O23: quotient and remainder recover the index, and `row * COLS + col` is the only index of a pixel. -/
theorem rasterOrderIsOneToOne : Obligations.RasterOrderIsOneToOne := by
  intro rows cols
  refine ⟨fun i hi => ?coordinates, fun row col hrow hcol => ?index⟩
  case coordinates =>
    obtain ⟨hrow, hcol, hrows, hcols⟩ := raster_toNat hi
    rw [hrow, hcol]
    exact ⟨Nat.one_le_of_lt hcols, rfl, rfl, hrows, hcols, Nat.div_add_mod' i cols.toNat⟩
  case index =>
    have hlt := raster_index_lt hrow hcol
    have hpixel := raster_index row hcol
    refine ⟨row.toNat * cols.toNat + col.toNat, ⟨hlt, hpixel⟩, ?_⟩
    rintro i ⟨hi, rfl, rfl⟩
    exact ((raster_inj hlt hi).mp hpixel).symm

/-- Settles O24: row and column are the coordinates of IDX. -/
theorem ldpixLoadsOrRaises : Obligations.LdpixLoadsOrRaises := by
  refine ⟨decode_encode .ldpix, fun s hs => ⟨fun hr row col hrow hcol => ?_, exec_ldpix_out_of_range hs⟩⟩
  obtain ⟨rfl, rfl⟩ := (eq_raster_iff hr row col).mpr ⟨hrow, hcol⟩
  exact exec_ldpix_in_range hs hr

/-- Settles O25: the carrier is written at the coordinates of IDX only. -/
theorem stpixStoresOrRaises : Obligations.StpixStoresOrRaises := by
  refine ⟨decode_encode .stpix, fun s hs => ⟨fun hr => ?_, exec_stpix_out_of_range hs⟩⟩
  refine ⟨_, exec_stpix_in_range hs hr, fun row col => ?_⟩
  rw [carRead_setPixelAt, ← eq_raster_iff hr]
  exact ⟨fun hhere => if_pos hhere, fun helse => if_neg helse⟩

/-- Settles O27: the three commands run one after the other, and the pixel packed is the one loaded. -/
theorem loadPackStoreEmbedsAByte : Obligations.LoadPackStoreEmbedsAByte := by
  intro s hs hr
  have hload := exec_ldpix_in_range hs hr
  refine ⟨⟨_, _, _, hload, exec_pack_of_clear hs, exec_stpix_in_range hs hr, hs, fun row col => ?embedded⟩,
    _, _, hload, exec_unpack_of_clear hs, hs, rfl, rfl⟩
  case embedded =>
    refine (carRead_setPixelAt _ _ _ _ row col).trans (ite_congr rfl ?_ fun _ => rfl)
    rintro ⟨rfl, rfl⟩
    rfl

end Sys2Proof.Proofs

/-! ### The commands do not see the host's script (R33, R78) -/

namespace Sys2Proof.Machine

section

variable (s : State) (l : List HostAction)

@[simp] theorem State.setScript_npix : (s.setScript l).npix = s.npix := rfl

theorem raise_setScript (e : ErrorKind) (info : Word) :
    raise e info (s.setScript l) = (raise e info s).setScript l := by
  rcases raise_cases e info s with ⟨hs, h⟩ | ⟨hs, h⟩
  · rw [h, raise_of_latched (by simpa using hs)]
  · rw [h, raise_of_clear (by simpa using hs)]
    rfl

theorem whenClear_setScript {body : State → State} (hbody : body (s.setScript l) = (body s).setScript l) :
    whenClear body (s.setScript l) = (whenClear body s).setScript l := by
  rcases whenClear_cases body s with ⟨hs, h⟩ | ⟨hs, h⟩
  · rw [h, whenClear_of_latched (by simpa using hs)]
  · rw [h, whenClear_of_clear (by simpa using hs), hbody]

theorem ite_setScript {c : Prop} [Decidable c] {a b a' b' : State} (ha : a' = a.setScript l)
    (hb : b' = b.setScript l) : (if c then a' else b') = (if c then a else b).setScript l := by
  rw [ha, hb, apply_ite (State.setScript · l)]

theorem loadPixel_setScript : loadPixel (s.setScript l) = (loadPixel s).setScript l :=
  ite_setScript l (raise_setScript s l _ _) rfl

theorem storePixel_setScript : storePixel (s.setScript l) = (storePixel s).setScript l :=
  ite_setScript l (raise_setScript s l _ _) rfl

theorem composeHeader_setScript : composeHeader (s.setScript l) = (composeHeader s).setScript l :=
  ite_setScript l (raise_setScript s l _ _) rfl

theorem parseHeader_setScript : parseHeader (s.setScript l) = (parseHeader s).setScript l := by
  simp only [parseHeader, State.setScript_hdr]
  split
  · exact raise_setScript s l _ _
  · rfl

theorem embedStream_setScript : embedStream (s.setScript l) = (embedStream s).setScript l :=
  ite_setScript l (raise_setScript s l _ _) rfl

theorem extractPayload_setScript (v : Nat) (name : List Byte) :
    extractPayload v name (s.setScript l) = (extractPayload v name s).setScript l :=
  ite_setScript l (raise_setScript (deliverHeader v name s) l _ _) rfl

theorem recoverHeader_setScript : recoverHeader (s.setScript l) = (recoverHeader s).setScript l := by
  rw [recoverHeader, recoverHeader, State.setScript_cols, State.setScript_car]
  generalize hdrOf (hiddenByte s.cols s.car) = h
  rfl

theorem extractStream_setScript : extractStream (s.setScript l) = (extractStream s).setScript l := by
  rw [extractStream, extractStream, State.setScript_npix, recoverHeader_setScript, State.setScript_hdr]
  refine ite_setScript l (raise_setScript s l _ _) ?_
  split
  · exact raise_setScript _ l _ _
  · exact extractPayload_setScript _ l _ _

end

/-- A command reads no line of the host's script and changes none. -/
theorem exec_setScript {i : Instr} {s t : State} (h : exec i s = .next t) (l : List HostAction) :
    exec i (s.setScript l) = .next (t.setScript l) := by
  cases i
  all_goals
    obtain rfl := Host.Outcome.next.inj h
    refine congrArg Host.Outcome.next ?_
  case ldpix => exact whenClear_setScript s l (loadPixel_setScript s l)
  case stpix => exact whenClear_setScript s l (storePixel_setScript s l)
  case compose => exact whenClear_setScript s l (composeHeader_setScript s l)
  case parse => exact whenClear_setScript s l (parseHeader_setScript s l)
  case embed => exact whenClear_setScript s l (embedStream_setScript s l)
  case extract => exact whenClear_setScript s l (extractStream_setScript s l)
  case clrerr => rfl
  all_goals exact whenClear_setScript s l rfl

/-- A command line is one step of a run, with the rest of the script as it was. -/
theorem run_exec {i : Instr} {s t : State} (n : Nat) (h : exec i s = .next t) (rest : List HostAction) :
    core.run (n + 1) (s.setScript (command i :: rest)) = core.run n (t.setScript rest) :=
  run_command n (exec_setScript h rest)

end Sys2Proof.Machine

/-! ### The stream and the two stream commands (R150 to R154) -/

namespace Sys2Proof.Machine

/-- The first 30 stream bytes are the header (R151). -/
theorem streamByte_hdr (hdr : Vector Byte 30) (pay : Memory 8) {i : Nat} (hi : i < 30) :
    streamByte hdr pay i = bufRead hdr i :=
  if_pos hi

/-- The stream bytes after the header are the payload (R151). -/
theorem streamByte_pay (hdr : Vector Byte 30) (pay : Memory 8) (k : Nat) :
    streamByte hdr pay (30 + k) = payRead pay (BitVec.ofNat 32 k) := by
  rw [streamByte, if_neg (by omega), Nat.add_sub_cancel_left]

theorem streamByte_pay_toNat (hdr : Vector Byte 30) (pay : Memory 8) (k : Word) :
    streamByte hdr pay (30 + k.toNat) = payRead pay k := by
  rw [streamByte_pay, BitVec.ofNat_toNat, BitVec.setWidth_eq]

/-- Of the pixels EMBED's loop has packed, the last one is what its last turn wrote. -/
theorem pixelAt_embedTurns_last {rows cols : Dim} (b : Nat → Byte) (car : Memory 24) {n : Nat}
    (hn : n < rows.toNat * cols.toNat) : pixelAt cols (embedTurns cols b car (n + 1)) n =
      packPixel (pixelAt cols (embedTurns cols b car n) n) (b n) := by
  rw [embedTurns, pixelAt_setPixelAt _ _ hn hn, if_pos rfl]

/-- A pixel that EMBED's loop has packed hides the stream byte (R120, R150). -/
theorem hiddenByte_embedTurns {rows cols : Dim} (b : Nat → Byte) (car : Memory 24) {n i : Nat}
    (hn : n ≤ rows.toNat * cols.toNat) (hi : i < n) : hiddenByte cols (embedTurns cols b car n) i = b i := by
  rw [hiddenByte, pixelAt_embedTurns b car hn (by omega), if_pos hi, unpackPixel_packPixel]

/-- EMBED's loop does not touch the pixels outside the grid (R65). -/
theorem carRead_embedTurns_outside {rows cols : Dim} (b : Nat → Byte) (car : Memory 24) {n : Nat}
    (hn : n ≤ rows.toNat * cols.toNat) {row col : Dim}
    (hout : ¬ (row.toNat < rows.toNat ∧ col.toNat < cols.toNat)) :
    carRead (embedTurns cols b car n) row col = carRead car row col := by
  refine carRead_embedTurns_other cols b car n fun i hi => ?_
  rintro ⟨rfl, rfl⟩
  obtain ⟨hrow, hcol, hrows, hcols⟩ := raster_toNat (rows := rows) (Nat.lt_of_lt_of_le hi hn)
  exact hout ⟨hrow ▸ hrows, hcol ▸ hcols⟩

theorem parseHdr_ok_le {h : Nat → Byte} {v : Nat} {name : List Byte} (hp : parseHdr h = .ok (v, name)) :
    v ≤ Config.sizeMax ∧ name.length ≤ 20 := by
  obtain ⟨_, _, hsize, rfl⟩ := parseHdr_ok hp
  exact ⟨undec8_le hsize, stripUs_length_le _⟩

/-! #### EXTRACT's two phases and the commands, with no error latched -/

@[simp] theorem State.setHdr_npix (s : State) (v : Vector Byte 30) : (s.setHdr v).npix = s.npix := rfl
@[simp] theorem State.setIdx_npix (s : State) (v : Word) : (s.setIdx v).npix = s.npix := rfl
@[simp] theorem State.setCar_npix (s : State) (v : Memory 24) : (s.setCar v).npix = s.npix := rfl
@[simp] theorem deliverHeader_npix (v : Nat) (name : List Byte) (s : State) :
    (deliverHeader v name s).npix = s.npix := by
  rw [State.npix, deliverHeader_rows, deliverHeader_cols, State.npix]

/-- EXTRACT's first phase, with `h` the header hidden in the first 30 pixels (R153). -/
theorem recoverHeader_of_hidden {s : State} {h : Vector Byte 30}
    (hh : ∀ j < 30, bufRead h j = hiddenByte s.cols s.car j) : recoverHeader s = (s.setHdr h).setIdx 30#32 := by
  have hhdr : hdrOf (hiddenByte s.cols s.car) = h :=
    buffer_ext fun j hj => (bufRead_hdrOf _ hj).trans (hh j hj).symm
  rw [recoverHeader, hhdr]

/-- The second phase of EXTRACT on a carrier too small for the payload (R154). -/
theorem extractPayload_of_truncated {v : Nat} {name : List Byte} {s : State} (hs : s.err = 0#3)
    (hshort : s.npix < 30 + v) :
    extractPayload v name s = (deliverHeader v name s).setLatch 4#3 (BitVec.ofNat 32 (30 + v)) := by
  rw [extractPayload, if_pos (by simpa using hshort), raise_of_clear (by simpa using hs), errorCode]

/-- The second phase of EXTRACT with room for the payload (R153). -/
theorem extractPayload_of_fits {v : Nat} {name : List Byte} {s : State} (hfits : 30 + v ≤ s.npix) :
    extractPayload v name s = (((deliverHeader v name s).setPay (extractTurns s.cols s.car s.pay v)).setPlen
      (BitVec.ofNat 32 v)).setIdx (BitVec.ofNat 32 (30 + v)) := by
  rw [extractPayload, if_neg (by simpa using hfits), deliverHeader_cols, deliverHeader_car, deliverHeader_pay]

section

variable {s : State} (hs : s.err = 0#3)

include hs

theorem exec_embed_of_fits (hfits : 30 + s.plen.toNat ≤ s.npix) : exec .embed s = .next ((s.setCar
    (embedTurns s.cols (streamByte s.hdr s.pay) s.car (30 + s.plen.toNat))).setIdx
      (BitVec.ofNat 32 (30 + s.plen.toNat))) := by
  rw [exec, execEmbed, whenClear_of_clear hs, embedStream, if_neg (Nat.not_lt.mpr hfits)]

theorem exec_embed_of_overflow (hover : s.npix < 30 + s.plen.toNat) :
    exec .embed s = .next (s.setLatch 2#3 s.plen) := by
  rw [exec, execEmbed, whenClear_of_clear hs, embedStream, if_pos hover, raise_of_clear hs, errorCode]

theorem exec_extract_of_short (hshort : s.npix < 30) : exec .extract s = .next (s.setLatch 4#3 30#32) := by
  rw [exec, execExtract, whenClear_of_clear hs, extractStream, if_pos hshort, raise_of_clear hs, errorCode]

section

variable {h : Vector Byte 30} (hh : ∀ j < 30, bufRead h j = hiddenByte s.cols s.car j)

include hh

theorem exec_extract_of_error (hroom : 30 ≤ s.npix) {j : Nat} (hp : parseHdr (bufRead h) = .error j) :
    exec .extract s = .next (((s.setHdr h).setIdx 30#32).setLatch 3#3 (BitVec.ofNat 32 j)) := by
  rw [exec, execExtract, whenClear_of_clear hs, extractStream, if_neg (Nat.not_lt.mpr hroom),
    recoverHeader_of_hidden hh, State.setIdx_hdr, State.setHdr_hdr, hp]
  exact congrArg Host.Outcome.next (raise_of_clear hs)

section

variable {v : Nat} {name : List Byte} (hp : parseHdr (bufRead h) = .ok (v, name))

include hp

theorem exec_extract_of_ok (hroom : 30 ≤ s.npix) :
    exec .extract s = .next (extractPayload v name ((s.setHdr h).setIdx 30#32)) := by
  rw [exec, execExtract, whenClear_of_clear hs, extractStream, if_neg (Nat.not_lt.mpr hroom),
    recoverHeader_of_hidden hh, State.setIdx_hdr, State.setHdr_hdr, hp]

theorem exec_extract_of_truncated (hroom : 30 ≤ s.npix) (hshort : s.npix < 30 + v) : exec .extract s =
    .next ((deliverHeader v name ((s.setHdr h).setIdx 30#32)).setLatch 4#3 (BitVec.ofNat 32 (30 + v))) := by
  rw [exec_extract_of_ok hs hh hp hroom, extractPayload_of_truncated (by simpa using hs) (by simpa using hshort)]

/-- EXTRACT that does not raise; the 30 that IDX holds after the header does not last (R153). -/
theorem exec_extract_of_fits (hfits : 30 + v ≤ s.npix) : exec .extract s =
    .next ((((deliverHeader v name (s.setHdr h)).setPay (extractTurns s.cols s.car s.pay v)).setPlen
      (BitVec.ofNat 32 v)).setIdx (BitVec.ofNat 32 (30 + v))) := by
  rw [exec_extract_of_ok hs hh hp (by omega), extractPayload_of_fits (by simpa using hfits)]
  exact congrArg Host.Outcome.next (by apply State.ext <;> simp)

end

end

end

/-! #### The round trip through the carrier (R157) -/

/-- EXTRACT right after an EMBED that did not raise, when HDR states the payload's size: the header's size and name
are delivered, PAY takes the bytes it had, and HDR, PLEN and IDX are what EXTRACT would make them already. -/
theorem exec_extract_of_embedded {s t : State} {name : List Byte} (hs : s.err = 0#3)
    (hfits : 30 + s.plen.toNat ≤ s.npix) (hp : parseHdr (bufRead s.hdr) = .ok (s.plen.toNat, name))
    (hembed : exec .embed s = .next t) : ∃ pay : Memory 8, (∀ k : Word, payRead pay k = payRead s.pay k) ∧
      exec .extract t = .next ((deliverHeader s.plen.toNat name t).setPay pay) := by
  obtain rfl := Host.Outcome.next.inj ((exec_embed_of_fits hs hfits).symm.trans hembed)
  have hhidden := fun i (hi : i < 30 + s.plen.toNat) =>
    hiddenByte_embedTurns (streamByte s.hdr s.pay) s.car (rows := s.rows) (cols := s.cols) hfits hi
  generalize embedTurns s.cols (streamByte s.hdr s.pay) s.car (30 + s.plen.toNat) = m at hhidden ⊢
  refine ⟨extractTurns s.cols m s.pay s.plen.toNat, fun k => ?pay, ?extract⟩
  case pay =>
    rw [payRead_extractTurns _ _ _ s.plen.isLt]
    split
    · next hk => exact (hhidden _ (by omega)).trans (streamByte_pay_toNat _ _ k)
    · rfl
  case extract =>
    have hhdr : ∀ j < 30, bufRead s.hdr j = hiddenByte s.cols m j := fun j hj =>
      ((hhidden j (by omega)).trans (streamByte_hdr _ _ hj)).symm
    rw [exec_extract_of_fits (s := (s.setCar m).setIdx _) (by simpa using hs) (by simpa using hhdr) hp
      (by simpa using hfits)]
    exact congrArg Host.Outcome.next (by apply State.ext <;> simp)

/-! #### The host script of R155, one PUTBYTE for each stream byte -/

/-- The lines of the script for one stream byte: `WR BYTE, b ; PUTBYTE`. -/
def putByteLines (b : Byte) : List HostAction := .wr 8 (b.setWidth 32) :: putByte

/-- The lines of the script for the first `n` stream bytes. -/
def putLoop (b : Nat → Byte) (n : Nat) : List HostAction := (List.range n).flatMap fun i => putByteLines (b i)

theorem putLoop_succ (b : Nat → Byte) (n : Nat) : putLoop b (n + 1) = putLoop b n ++ putByteLines (b n) := by
  rw [putLoop, List.range_succ, List.flatMap_append, List.flatMap_singleton, putLoop]

theorem putLoop_length (b : Nat → Byte) (n : Nat) : (putLoop b n).length = 5 * n := by
  induction n with
  | zero => rfl
  | succ n ih => rw [putLoop_succ, List.length_append, ih]; rfl

/-- The script is IRST and one loop over the stream bytes (R151, R155). -/
theorem embedByHand_eq_putLoop (s : State) :
    embedByHand s = command .irst :: putLoop (streamByte s.hdr s.pay) (30 + s.plen.toNat) := by
  rw [embedByHand, putLoop, List.range_add, List.flatMap_append, List.flatMap_map]
  refine congrArg (command .irst :: ·) (congrArg₂ (· ++ ·) (List.flatMap_congr fun j hj => ?_)
    (List.flatMap_congr fun k _ => ?_))
  · rw [streamByte_hdr _ _ (List.mem_range.mp hj), putByteLines]
  · rw [streamByte_pay, putByteLines]

/-- The script runs as its loop does from IDX = 0. -/
theorem run_embedByHand {s : State} (hs : s.err = 0#3) :
    core.run (embedByHand s).length (s.setScript (embedByHand s)) =
      core.run (5 * (30 + s.plen.toNat)) ((s.setIdx 0#32).setScript (putLoop (streamByte s.hdr s.pay)
        (30 + s.plen.toNat))) := by
  rw [embedByHand_eq_putLoop, List.length_cons, putLoop_length]
  exact run_exec _ (exec_irst_of_clear hs) _

section

variable {s : State} (b : Byte) (rest : List HostAction)

theorem run_wr_byte (n : Nat) :
    core.run (n + 1) (s.setScript (.wr 8 (b.setWidth 32) :: rest)) = core.run n ((s.setByte b).setScript rest) := by
  have hwr : doAction (.wr 8 (b.setWidth 32)) (s.setScript rest) =
      .next ((s.setScript rest).setByte ((b.setWidth 32).setWidth 8)) := rfl
  rw [BitVec.setWidth_setWidth_of_le _ (by decide), BitVec.setWidth_eq] at hwr
  exact run_cons n hwr

theorem run_putByteLines_in_range (hs : s.err = 0#3) (hr : s.idx.toNat < s.npix) :
    core.run 5 (s.setScript (putByteLines b ++ rest)) =
      .next (((((s.setByte b).setPix (packPixel (pixelAt s.cols s.car s.idx.toNat) b)).setCar
        (setPixelAt s.cols s.car s.idx.toNat (packPixel (pixelAt s.cols s.car s.idx.toNat) b))).setIdx
          (s.idx + 1#32)).setScript rest) :=
  (run_wr_byte b _ 4).trans (run_putByte_in_range (s := s.setByte b) rest hs hr)

theorem run_putByteLines_out_of_range (hs : s.err = 0#3) (hr : s.npix ≤ s.idx.toNat) :
    core.run 5 (s.setScript (putByteLines b ++ rest)) = .next (((s.setByte b).setLatch 4#3 s.idx).setScript rest) :=
  (run_wr_byte b _ 4).trans (run_putByte_out_of_range (s := s.setByte b) rest hs hr)

theorem run_putByteLines_latched (hs : s.err ≠ 0#3) :
    core.run 5 (s.setScript (putByteLines b ++ rest)) = .next ((s.setByte b).setScript rest) :=
  (run_wr_byte b _ 4).trans (run_putByte_latched (s := s.setByte b) rest hs)

end

/-- What the loop leaves after `n` turns inside the carrier: CAR and IDX as EMBED's loop has them after `n` turns, the
last byte in BYTE and the last packed pixel in PIX. -/
def putBytes (b : Nat → Byte) (s : State) : Nat → State
  | 0 => s.setIdx 0#32
  | n + 1 => (((s.setCar (embedTurns s.cols b s.car (n + 1))).setIdx (BitVec.ofNat 32 (n + 1))).setByte (b n)).setPix
    (pixelAt s.cols (embedTurns s.cols b s.car (n + 1)) n)

section

variable (b : Nat → Byte) (s : State) (n : Nat)

/-- Only CAR, IDX, BYTE and PIX are touched. -/
theorem putBytes_eq : putBytes b s n = (((s.setCar (embedTurns s.cols b s.car n)).setIdx (BitVec.ofNat 32 n)).setByte
    (putBytes b s n).byte).setPix (putBytes b s n).pix := by
  cases n <;> rfl

@[simp] theorem putBytes_err : (putBytes b s n).err = s.err := by rw [putBytes_eq]; simp
@[simp] theorem putBytes_cols : (putBytes b s n).cols = s.cols := by rw [putBytes_eq]; simp
@[simp] theorem putBytes_car : (putBytes b s n).car = embedTurns s.cols b s.car n := by rw [putBytes_eq]; simp
@[simp] theorem putBytes_idx : (putBytes b s n).idx = BitVec.ofNat 32 n := by rw [putBytes_eq]; simp
@[simp] theorem putBytes_npix : (putBytes b s n).npix = s.npix := by rw [putBytes_eq]; rfl

/-- The state after a turn from the state before it. -/
theorem putBytes_succ : putBytes b s (n + 1) = ((((putBytes b s n).setByte (b n)).setPix
    (pixelAt s.cols (embedTurns s.cols b s.car (n + 1)) n)).setCar (embedTurns s.cols b s.car (n + 1))).setIdx
      (BitVec.ofNat 32 (n + 1)) := by
  rw [putBytes, putBytes_eq b s n]
  apply State.ext <;> simp

theorem putBytes_pix_of_pos {n : Nat} (hn : 0 < n) :
    (putBytes b s n).pix = pixelAt s.cols (embedTurns s.cols b s.car n) (n - 1) := by
  cases n with
  | zero => omega
  | succ n => rfl

end

section

variable {s : State} (b : Nat → Byte) (rest : List HostAction)

/-- A turn of the loop inside the carrier. -/
theorem run_putBytes_turn (hs : s.err = 0#3) {n : Nat} (hn : n < s.npix) :
    core.run 5 ((putBytes b s n).setScript (putByteLines (b n) ++ rest)) =
      .next ((putBytes b s (n + 1)).setScript rest) := by
  have hidx : (BitVec.ofNat 32 n).toNat = n := Nat.mod_eq_of_lt (Nat.lt_trans hn (npix_lt s))
  have hlast := pixelAt_embedTurns_last (rows := s.rows) (cols := s.cols) b s.car hn
  rw [run_putByteLines_in_range _ _ (by simpa using hs) (by simpa [hidx] using hn)]
  refine congrArg (Host.Outcome.next <| State.setScript · rest) ?_
  rw [putBytes_succ, putBytes_cols, putBytes_car, putBytes_idx, hidx, hlast, embedTurns, BitVec.ofNat_add]

/-- The loop inside the carrier. -/
theorem run_putLoop_in_range (hs : s.err = 0#3) {n : Nat} (hn : n ≤ s.npix) :
    core.run (5 * n) ((s.setIdx 0#32).setScript (putLoop b n ++ rest)) = .next ((putBytes b s n).setScript rest) := by
  induction n generalizing rest with
  | zero => rfl
  | succ n ih =>
    rw [putLoop_succ, List.append_assoc]
    exact (run_add (5 * n) 5 (ih _ (by omega))).trans (run_putBytes_turn b rest hs hn)

/-- The loop past the end of the carrier: the turn after the last pixel raises, and each later one only writes BYTE. -/
theorem run_putLoop_out_of_range (hs : s.err = 0#3) {n : Nat} (hn : s.npix ≤ n) :
    core.run (5 * (n + 1)) ((s.setIdx 0#32).setScript (putLoop b (n + 1) ++ rest)) =
      .next ((((putBytes b s s.npix).setByte (b n)).setLatch 4#3 (BitVec.ofNat 32 s.npix)).setScript rest) := by
  induction n, hn using Nat.le_induction generalizing rest with
  | base =>
    have hidx : (BitVec.ofNat 32 s.npix).toNat = s.npix := Nat.mod_eq_of_lt (npix_lt s)
    rw [putLoop_succ, List.append_assoc, Nat.mul_succ, run_add (5 * s.npix) 5 (run_putLoop_in_range b _ hs le_rfl),
      run_putByteLines_out_of_range _ _ (by simpa using hs) (by simp [hidx]), putBytes_idx]
  | succ n _ ih =>
    rw [putLoop_succ, List.append_assoc, Nat.mul_succ, run_add (5 * (n + 1)) 5 (ih _),
      run_putByteLines_latched _ _ (by simp)]
    rfl

end

end Sys2Proof.Machine

/-! ### The statements of the family `43_stream.md` -/

namespace Sys2Proof.Proofs

open Sys2Proof Sys2Proof.Machine

/-- Settles O34: the pixels EMBED's loop leaves, header byte, payload byte and the pixels no turn reaches. -/
theorem embedHidesTheStream : Obligations.EmbedHidesTheStream := by
  refine ⟨decode_encode .embed, fun s hs => ⟨fun hfits => ?fits, exec_embed_of_overflow hs⟩⟩
  case fits =>
    have hpacked : ∀ i < 30 + s.plen.toNat,
        pixelAt s.cols (embedTurns s.cols (streamByte s.hdr s.pay) s.car (30 + s.plen.toNat)) i =
          packPixel (pixelAt s.cols s.car i) (streamByte s.hdr s.pay i) := fun i hi => by
      rw [pixelAt_embedTurns _ _ hfits (by omega), if_pos hi]
    refine ⟨_, exec_embed_of_fits hs hfits, Nat.lt_of_le_of_lt hfits (npix_lt s), fun i hi => ?_, fun k hk => ?_,
      fun row col => carRead_embedTurns_other _ _ _ _⟩
    · rw [hpacked i (by omega), streamByte_hdr _ _ hi]
    · rw [hpacked _ (by omega), streamByte_pay_toNat]

/-- Settles O35: a PLEN of 2^32 - 1 exceeds every pixel count, since NPIX is below 2^32. -/
theorem embedTooLargeWritesNothing : Obligations.EmbedTooLargeWritesNothing := by
  refine fun s hs => ⟨exec_embed_of_overflow hs, fun hplen => exec_embed_of_overflow hs ?_⟩
  have hmax : s.plen.toNat = 4294967295 := by rw [hplen]; rfl
  have := npix_lt s
  omega

/-- Settles O38, one outcome of EXTRACT after the other. -/
theorem extractRecoversOrRaises : Obligations.ExtractRecoversOrRaises := by
  refine ⟨decode_encode .extract, fun s hs => ⟨exec_extract_of_short hs, fun h hroom hh => ?_⟩⟩
  refine ⟨fun j => ?malformed, ?parsed⟩
  case malformed => exact exec_extract_of_error hs hh hroom
  case parsed =>
    intro v nm hp
    obtain ⟨hv, hnm⟩ := parseHdr_ok_le hp
    refine ⟨bufStore s.name nm, extractTurns s.cols s.car s.pay v, hv, hnm,
      fun j hj => bufRead_bufStore_of_lt _ hj (by omega), fun j hj => bufRead_bufStore_of_le _ hj, ?_, ?_, ?_⟩
    · exact payRead_extractTurns s.cols s.car s.pay (Nat.lt_of_le_of_lt hv (by decide))
    · intro hshort
      rw [exec_extract_of_truncated hs hh hp hroom hshort, deliverHeader, State.setIdx_name, State.setHdr_name]
    · intro hfits
      rw [exec_extract_of_fits hs hh hp hfits, deliverHeader, State.setHdr_name]

/-- Settles O39: EMBED hides the composed header and the payload, and EXTRACT recovers both. -/
theorem embedThenExtractRoundTrip : Obligations.EmbedThenExtractRoundTrip := by
  intro s N hs hN hfits
  have hcompose := exec_compose_of_fits (s := (s.setSize N).setPlen N) (by simpa using hs) hN
  simp only [State.setPlen_size, State.setSize_size, State.setPlen_name, State.setSize_name, State.setPlen_nlen,
    State.setSize_nlen] at hcompose
  have hp : parseHdr (bufRead (hdrOf (composedByte N.toNat (bufRead s.name) s.nlen.toNat))) =
      .ok (N.toNat, stripUs (name20 (bufRead s.name) s.nlen.toNat)) := by
    rw [parseHdr_bufRead_hdrOf, parseHdr_composedByte hN]
  have hlen := stripUs_length_le (name20 (bufRead s.name) s.nlen.toNat)
  generalize hdrOf (composedByte N.toNat (bufRead s.name) s.nlen.toNat) = h at hcompose hp ⊢
  generalize stripUs (name20 (bufRead s.name) s.nlen.toNat) = name at hp hlen ⊢
  have hroom : 30 + (((s.setSize N).setPlen N).setHdr h).plen.toNat ≤ (((s.setSize N).setPlen N).setHdr h).npix := by
    simpa [State.npix] using hfits
  have hembed := exec_embed_of_fits (by simpa using hs) hroom
  obtain ⟨pay, hpay, hextract⟩ := exec_extract_of_embedded (by simpa using hs) hroom (by simpa using hp) hembed
  have hrun : core.run 5 (s.setScript [.wr 5 N, .wr 6 N, command .compose, command .embed, command .extract]) =
      .next _ :=
    (run_exec 2 hcompose _).trans ((run_exec 1 hembed _).trans (run_exec 0 hextract []))
  have hnlen : (BitVec.ofNat 8 name.length).toNat = name.length := Nat.mod_eq_of_lt (by omega)
  have hidx : (BitVec.ofNat 32 (30 + N.toNat)).toNat = 30 + N.toNat := Nat.mod_eq_of_lt (by omega)
  refine ⟨_, hrun, rfl, ?good, ?plen, ?size, ?idx, ?pay, ?hdr, ?nlen, ?name⟩
  case good => simpa [State.good] using hs
  case plen => simp
  case size => simp
  case idx => simpa using hidx
  case pay => exact fun k _ => by simpa using hpay k
  case hdr => simp
  case nlen => simpa using hnlen
  case name =>
    simp only [State.setScript_nlen, State.setPay_nlen, deliverHeader_nlen, hnlen]
    exact fun j hj => bufRead_bufStore_of_lt _ hj (by omega)

/-- Settles O40: the script is IRST and a loop whose turns are those of EMBED's loop as long as there are pixels. -/
theorem embedEqualsTheByteLoop : Obligations.EmbedEqualsTheByteLoop := by
  intro s hs
  obtain ⟨n, hn⟩ : ∃ n, 30 + s.plen.toNat = n + 1 := ⟨29 + s.plen.toNat, by omega⟩
  rw [run_embedByHand hs, hn, Nat.add_sub_cancel, ← List.append_nil (putLoop _ _)]
  refine ⟨fun hfits => ?fits, fun hover => ⟨exec_embed_of_overflow hs (by rw [hn]; exact hover), ?overflow⟩⟩
  case fits =>
    have hembed := exec_embed_of_fits hs (by rw [hn]; exact hfits)
    rw [hn] at hembed
    exact ⟨_, _, _, _, hembed, run_putLoop_in_range _ [] hs hfits, rfl, rfl, rfl⟩
  case overflow =>
    have hrun := run_putLoop_out_of_range (streamByte s.hdr s.pay) [] hs (Nat.le_of_lt_succ hover)
    refine ⟨_, embedTurns s.cols (streamByte s.hdr s.pay) s.car s.npix,
      (putBytes (streamByte s.hdr s.pay) s s.npix).pix, hrun, ?state, fun hnone => ?none, putBytes_pix_of_pos _ _,
      fun i hi => ?inside, fun row col => carRead_embedTurns_outside _ _ le_rfl⟩
    case state =>
      rw [putBytes_eq]
      apply State.ext <;> simp [State.npix]
    case none =>
      rw [show s.npix = 0 from hnone]
      rfl
    case inside => rw [State.npix, pixelAt_embedTurns _ _ le_rfl hi, if_pos hi]

end Sys2Proof.Proofs

/-! ### NOP and CLRERR, an error latched or not (R170, R171) -/

namespace Sys2Proof.Machine

/-- The gate of a latched error keeps no state back from a command that does nothing. -/
@[simp] theorem whenClear_id (s : State) : whenClear (fun s => s) s = s :=
  ite_self s

theorem exec_nop (s : State) : exec .nop s = .next s :=
  congrArg Host.Outcome.next (whenClear_id s)

theorem exec_clrerr (s : State) : exec .clrerr s = .next (s.setLatch 0#3 0#32) := rfl

@[simp] theorem State.setLatch_self (s : State) : s.setLatch s.err s.errInfo = s := rfl

end Sys2Proof.Machine

/-! ### The statements of the family `44_control.md` -/

namespace Sys2Proof.Proofs

open Sys2Proof Sys2Proof.Machine

/-- Settles O14: CLRERR writes the latch only, which changes nothing when the latch is 0 already, and the gate keeps
every other command from a latched error. -/
theorem clrerrClearsTheLatch : Obligations.ClrerrClearsTheLatch := by
  refine ⟨decode_encode .clrerr, fun s => ⟨exec_clrerr s, ?unlatched, ?latched⟩⟩
  case unlatched =>
    intro herr hinfo
    have hself : s.setLatch 0#3 0#32 = s := by rw [← herr, ← hinfo, State.setLatch_self]
    rw [exec_clrerr, hself]
  case latched => exact fun hs _ hi => exec_of_latched hs hi

/-- Settles O13: with no error latched NOP's body is the identity, and with one latched the gate is. -/
theorem nopChangesNothing : Obligations.NopChangesNothing :=
  ⟨decode_encode .nop, exec_nop⟩

end Sys2Proof.Proofs

/-! ### The host's accesses to the registers and buffers (R20, R53, R78) -/

namespace Sys2Proof.Machine

/-- A step whose next line writes a register other than CMD writes that register (R20). -/
theorem step_wr_reg {s : State} {n : Nat} {v : Word} {rest : List HostAction} (h : s.script = .wr n v :: rest)
    (hn : n ≠ 0) : step s = .next (writeReg (s.setScript rest) n v) :=
  (step_cons h).trans (if_neg hn)

/-- No register read depends on the script. -/
@[simp] theorem readReg_setScript (s : State) (rest : List HostAction) (n : Nat) :
    readReg (s.setScript rest) n = readReg s n :=
  rfl

/-- No buffer read depends on the script. -/
@[simp] theorem readBuffer_setScript (s : State) (rest : List HostAction) (b : Buffer) (j : Nat) :
    readBuffer (s.setScript rest) b j = readBuffer s b j := by
  cases b <;> rfl

/-- A step whose next line reads a register records its value and changes nothing else (R20, R59). -/
theorem step_rd {s : State} {n : Nat} {rest : List HostAction} (h : s.script = .rd n :: rest) :
    step s = .next ((s.setScript rest).seen (readReg s n)) := by
  rw [step_cons h, doAction, readReg_setScript]

/-- A step whose next line writes a buffer byte writes that byte (R53). -/
theorem step_wrb {s : State} {b : Buffer} {j : Nat} {v : Byte} {rest : List HostAction}
    (h : s.script = .wrb b j v :: rest) : step s = .next (writeBuffer (s.setScript rest) b j v) :=
  step_cons h

/-- A step whose next line reads a buffer byte records its value and changes nothing else (R53, R59). -/
theorem step_rdb {s : State} {b : Buffer} {j : Nat} {rest : List HostAction} (h : s.script = .rdb b j :: rest) :
    step s = .next ((s.setScript rest).seen ((readBuffer s b j).setWidth 32)) := by
  rw [step_cons h, doAction, readBuffer_setScript]

end Sys2Proof.Machine

/-! ### The statements of the family `60_exceptions.md` -/

namespace Sys2Proof.Proofs

open Sys2Proof Sys2Proof.Machine

/-- Settles O8: the gate stands in every command but CLRERR and before every illegal word; the host's accesses do not
pass it, so they are what they are with no error latched. -/
theorem latchedErrorGatesCommands : Obligations.LatchedErrorGatesCommands := by
  intro s rest hs
  refine ⟨fun _ => exec_of_latched hs, ?cmd, ?wr, ?wrb, ?rd, ?rdb⟩
  case cmd =>
    intro w hw
    rw [step_wr_cmd (State.setScript_script s _)]
    exact runCommand_of_latched hs hw
  case wr => exact fun _ _ => step_wr_reg (State.setScript_script s _)
  case wrb => exact fun _ _ _ => step_wrb (State.setScript_script s _)
  case rd => exact fun _ => step_rd (State.setScript_script s _)
  case rdb => exact fun _ _ => step_rdb (State.setScript_script s _)

end Sys2Proof.Proofs

/-! ### What a command can do: every way to raise and every way to complete (R44, R180) -/

namespace Sys2Proof.Machine

/-- With no error latched, `i` raises in `s` an error of kind `e` with the offending value `info`, and `q` is what it
leaves but for the latch (R180). -/
inductive Raises (s : State) : Instr → ErrorKind → Word → State → Prop
  /-- R95 -/
  | compose (hsize : Config.sizeMax < s.size.toNat) : Raises s .compose .sizeOverflow s.size s
  /-- R152 -/
  | embed (hover : s.npix < 30 + s.plen.toNat) : Raises s .embed .capacityOverflow s.plen s
  /-- R135 -/
  | stpix (hr : s.npix ≤ s.idx.toNat) : Raises s .stpix .capacityOverflow s.idx s
  /-- R134 -/
  | ldpix (hr : s.npix ≤ s.idx.toNat) : Raises s .ldpix .truncatedCarrier s.idx s
  /-- R97 -/
  | parse {j : Nat} (hp : parseHdr (bufRead s.hdr) = .error j) :
    Raises s .parse .malformedHeader (BitVec.ofNat 32 j) s
  /-- R154, no room for a header -/
  | extractShort (hshort : s.npix < 30) : Raises s .extract .truncatedCarrier 30#32 s
  /-- R154, a header that does not parse -/
  | extractHeader {j : Nat} (hroom : 30 ≤ s.npix) (hp : parseHdr (hiddenByte s.cols s.car) = .error j) :
    Raises s .extract .malformedHeader (BitVec.ofNat 32 j)
      ((s.setHdr (hdrOf (hiddenByte s.cols s.car))).setIdx 30#32)
  /-- R154, no room for the payload -/
  | extractPayload {v : Nat} {name : List Byte} (hroom : 30 ≤ s.npix)
    (hp : parseHdr (hiddenByte s.cols s.car) = .ok (v, name)) (hshort : s.npix < 30 + v) :
    Raises s .extract .truncatedCarrier (BitVec.ofNat 32 (30 + v))
      (deliverHeader v name ((s.setHdr (hdrOf (hiddenByte s.cols s.car))).setIdx 30#32))

/-- With no error latched, `i` other than CLRERR does not raise in `s` and leaves `t`. -/
inductive Completes (s : State) : Instr → State → Prop
  /-- R170 -/
  | nop : Completes s .nop s
  /-- R113 -/
  | split : Completes s .split (s.setTriple (splitByte s.byte))
  /-- R114 -/
  | merge : Completes s .merge (s.setByte (mergeTriple s.triple))
  /-- R118 -/
  | pack : Completes s .pack (s.setPix (packPixel s.pix s.byte))
  /-- R119 -/
  | unpack : Completes s .unpack (s.setByte (unpackPixel s.pix))
  /-- R134 -/
  | ldpix (hr : s.idx.toNat < s.npix) : Completes s .ldpix (s.setPix (pixelAt s.cols s.car s.idx.toNat))
  /-- R135 -/
  | stpix (hr : s.idx.toNat < s.npix) :
    Completes s .stpix (s.setCar (setPixelAt s.cols s.car s.idx.toNat s.pix))
  /-- R133 -/
  | inext : Completes s .inext (s.setIdx (s.idx + 1#32))
  /-- R95 -/
  | compose (hsize : s.size.toNat ≤ Config.sizeMax) :
    Completes s .compose (s.setHdr (hdrOf (composedByte s.size.toNat (bufRead s.name) s.nlen.toNat)))
  /-- R97 -/
  | parse {v : Nat} {name : List Byte} (hp : parseHdr (bufRead s.hdr) = .ok (v, name)) :
    Completes s .parse (deliverHeader v name s)
  /-- R150 -/
  | embed (hfits : 30 + s.plen.toNat ≤ s.npix) :
    Completes s .embed ((s.setCar (embedTurns s.cols (streamByte s.hdr s.pay) s.car (30 + s.plen.toNat))).setIdx
      (BitVec.ofNat 32 (30 + s.plen.toNat)))
  /-- R153 -/
  | extract {v : Nat} {name : List Byte} (hp : parseHdr (hiddenByte s.cols s.car) = .ok (v, name))
    (hfits : 30 + v ≤ s.npix) :
    Completes s .extract ((((deliverHeader v name (s.setHdr (hdrOf (hiddenByte s.cols s.car)))).setPay
      (extractTurns s.cols s.car s.pay v)).setPlen (BitVec.ofNat 32 v)).setIdx (BitVec.ofNat 32 (30 + v)))
  /-- R132 -/
  | irst : Completes s .irst (s.setIdx 0#32)

section

variable {s : State} {i : Instr}

theorem exec_of_raises (hs : s.err = 0#3) {e : ErrorKind} {info : Word} {q : State} (h : Raises s i e info q) :
    exec i s = .next (q.setLatch (errorCode e) info) := by
  have hhidden : ∀ j < 30, bufRead (hdrOf (hiddenByte s.cols s.car)) j = hiddenByte s.cols s.car j :=
    fun _ hj => bufRead_hdrOf _ hj
  cases h with
  | compose hsize => exact exec_compose_of_overflow hs hsize
  | embed hover => exact exec_embed_of_overflow hs hover
  | stpix hr => exact exec_stpix_out_of_range hs hr
  | ldpix hr => exact exec_ldpix_out_of_range hs hr
  | parse hp => exact exec_parse_of_error hs hp
  | extractShort hshort => exact exec_extract_of_short hs hshort
  | extractHeader hroom hp =>
    exact exec_extract_of_error hs hhidden hroom ((parseHdr_bufRead_hdrOf _).trans hp)
  | extractPayload hroom hp hshort =>
    exact exec_extract_of_truncated hs hhidden ((parseHdr_bufRead_hdrOf _).trans hp) hroom hshort

theorem exec_of_completes (hs : s.err = 0#3) {t : State} (h : Completes s i t) : exec i s = .next t := by
  cases h with
  | nop => exact exec_nop s
  | ldpix hr => exact exec_ldpix_in_range hs hr
  | stpix hr => exact exec_stpix_in_range hs hr
  | compose hsize => exact exec_compose_of_fits hs hsize
  | parse hp => exact exec_parse_of_ok hs hp
  | embed hfits => exact exec_embed_of_fits hs hfits
  | extract hp hfits =>
    exact exec_extract_of_fits hs (fun _ hj => bufRead_hdrOf _ hj) ((parseHdr_bufRead_hdrOf _).trans hp) hfits
  | _ => exact congrArg Host.Outcome.next (whenClear_of_clear hs)

/-- A command other than CLRERR raises or completes. -/
theorem raises_or_completes (s : State) (hi : i ≠ .clrerr) :
    (∃ e info q, Raises s i e info q) ∨ ∃ t, Completes s i t := by
  cases i with
  | nop => exact .inr ⟨_, .nop⟩
  | split => exact .inr ⟨_, .split⟩
  | merge => exact .inr ⟨_, .merge⟩
  | pack => exact .inr ⟨_, .pack⟩
  | unpack => exact .inr ⟨_, .unpack⟩
  | ldpix =>
    rcases Nat.lt_or_ge s.idx.toNat s.npix with hr | hr
    · exact .inr ⟨_, .ldpix hr⟩
    · exact .inl ⟨_, _, _, .ldpix hr⟩
  | stpix =>
    rcases Nat.lt_or_ge s.idx.toNat s.npix with hr | hr
    · exact .inr ⟨_, .stpix hr⟩
    · exact .inl ⟨_, _, _, .stpix hr⟩
  | inext => exact .inr ⟨_, .inext⟩
  | compose =>
    rcases Nat.lt_or_ge Config.sizeMax s.size.toNat with hsize | hsize
    · exact .inl ⟨_, _, _, .compose hsize⟩
    · exact .inr ⟨_, .compose hsize⟩
  | parse =>
    cases hp : parseHdr (bufRead s.hdr) with
    | error j => exact .inl ⟨_, _, _, .parse hp⟩
    | ok r => exact .inr ⟨_, .parse hp⟩
  | embed =>
    rcases Nat.lt_or_ge s.npix (30 + s.plen.toNat) with hover | hfits
    · exact .inl ⟨_, _, _, .embed hover⟩
    · exact .inr ⟨_, .embed hfits⟩
  | extract =>
    rcases Nat.lt_or_ge s.npix 30 with hshort | hroom
    · exact .inl ⟨_, _, _, .extractShort hshort⟩
    cases hp : parseHdr (hiddenByte s.cols s.car) with
    | error j => exact .inl ⟨_, _, _, .extractHeader hroom hp⟩
    | ok r =>
      rcases Nat.lt_or_ge s.npix (30 + r.1) with hshort | hfits
      · exact .inl ⟨_, _, _, .extractPayload hroom hp hshort⟩
      · exact .inr ⟨_, .extract hp hfits⟩
  | irst => exact .inr ⟨_, .irst⟩
  | clrerr => contradiction

/-- Everything a command can do: nothing, gated by a latched error; clear the latch; raise; complete. -/
theorem exec_cases {t : State} (h : exec i s = .next t) :
    (s.err ≠ 0#3 ∧ i ≠ .clrerr ∧ t = s) ∨
    (i = .clrerr ∧ t = s.setLatch 0#3 0#32) ∨
    (s.err = 0#3 ∧ ∃ e info q, Raises s i e info q ∧ t = q.setLatch (errorCode e) info) ∨
    (s.err = 0#3 ∧ Completes s i t) := by
  by_cases hi : i = .clrerr
  · subst hi
    exact .inr (.inl ⟨rfl, (Host.Outcome.next.inj ((exec_clrerr s).symm.trans h)).symm⟩)
  by_cases hs : s.err = 0#3
  · rcases raises_or_completes s hi with ⟨e, info, q, hraises⟩ | ⟨u, hcompletes⟩
    · have ht := Host.Outcome.next.inj ((exec_of_raises hs hraises).symm.trans h)
      exact .inr (.inr (.inl ⟨hs, e, info, q, hraises, ht.symm⟩))
    · have ht := Host.Outcome.next.inj ((exec_of_completes hs hcompletes).symm.trans h)
      exact .inr (.inr (.inr ⟨hs, ht ▸ hcompletes⟩))
  · exact .inl ⟨hs, hi, (Host.Outcome.next.inj ((exec_of_latched hs hi).symm.trans h)).symm⟩

end

theorem Completes.latch {s t : State} {i : Instr} (h : Completes s i t) : t.err = s.err ∧ t.errInfo = s.errInfo := by
  cases h <;> simp

/-- A command that has latched an error has raised it. -/
theorem raises_of_latched {s t : State} {i : Instr} (h : exec i s = .next t) (hs : s.err = 0#3) (ht : t.err ≠ 0#3) :
    ∃ e info q, Raises s i e info q ∧ t = q.setLatch (errorCode e) info := by
  rcases exec_cases h with ⟨hlatched, _, _⟩ | ⟨_, rfl⟩ | ⟨_, hraises⟩ | ⟨_, hcompletes⟩
  · exact absurd hs hlatched
  · exact absurd rfl ht
  · exact hraises
  · exact absurd (hcompletes.latch.1.trans hs) ht

/-- The codes each command can raise (R180). -/
theorem Raises.code_mem {s q : State} {i : Instr} {e : ErrorKind} {info : Word} (h : Raises s i e info q) :
    (i, (errorCode e).toNat) ∈
      [(Instr.compose, 1), (Instr.embed, 2), (Instr.stpix, 2), (Instr.parse, 3), (Instr.extract, 3),
        (Instr.extract, 4), (Instr.ldpix, 4)] := by
  cases h <;> decide

/-- A command other than EXTRACT raises before it has written anything. -/
theorem Raises.eq_of_ne_extract {s q : State} {i : Instr} {e : ErrorKind} {info : Word} (h : Raises s i e info q)
    (hi : i ≠ .extract) : q = s := by
  cases h with
  | extractShort | extractHeader | extractPayload => contradiction
  | _ => rfl

/-- What EXTRACT may have written when it raises (R154). -/
theorem Raises.extract_leaves {s q : State} {e : ErrorKind} {info : Word} (h : Raises s .extract e info q) :
    ∃ (hdr : Vector Byte 30) (x v : Word) (n : Byte) (nm : Vector Byte 255),
      q = ((((s.setHdr hdr).setIdx x).setSize v).setNlen n).setName nm := by
  refine ⟨q.hdr, q.idx, q.size, q.nlen, q.name, ?_⟩
  cases h <;> apply State.ext <;> simp

/-- The first byte that is no digit is one of the eight (R92). -/
theorem undec8_error_lt {d : Nat → Byte} {k : Nat} (h : undec8 d = .error k) : k < 8 := by
  unfold undec8 at h
  split at h
  · next hfind =>
    obtain rfl := Except.error.inj h
    exact List.mem_range.mp (List.mem_of_find?_eq_some hfind)
  · cases h

/-- The index MalformedHeader records: a marker or a byte of the size field (R96). -/
theorem parseHdr_error_index {h : Nat → Byte} {j : Nat} (hp : parseHdr h = .error j) : j ≤ 8 ∨ j = 29 := by
  by_cases h0 : h 0 = Config.startMark
  · by_cases h29 : h 29 = Config.endMark
    · cases hu : undec8 fun k => h (1 + k) with
      | error k =>
        have hk := undec8_error_lt hu
        obtain rfl := Except.error.inj ((parseHdr_of_bad h0 h29 hu).symm.trans hp)
        omega
      | ok v => cases (parseHdr_of_size h0 h29 hu).symm.trans hp
    · exact .inr (Except.error.inj ((parseHdr_of_end h0 h29).symm.trans hp)).symm
  · obtain rfl := Except.error.inj ((parseHdr_of_start h0).symm.trans hp)
    exact .inl (Nat.zero_le 8)

/-- The same as the word ERRINFO holds. -/
theorem parseHdr_error_info {h : Nat → Byte} {j : Nat} (hp : parseHdr h = .error j) :
    (BitVec.ofNat 32 j).toNat ≤ 8 ∨ (BitVec.ofNat 32 j).toNat = 29 := by
  have hj := parseHdr_error_index hp
  rwa [BitVec.toNat_ofNat, Nat.mod_eq_of_lt (by omega)]

end Sys2Proof.Machine

/-! ### The statements about every command: the latch and the frame -/

namespace Sys2Proof.Proofs

open Sys2Proof Sys2Proof.Machine

/-- Settles O10: a command that completes keeps the latch, and one that raises has one of its own codes. -/
theorem onlyRaisingOrClrerrChangesErr : Obligations.OnlyRaisingOrClrerrChangesErr := by
  intro i s t h
  rcases exec_cases h with ⟨_, _, rfl⟩ | ⟨rfl, rfl⟩ | ⟨hs, e, info, q, hraises, rfl⟩ | ⟨_, hcompletes⟩
  · exact .inl ⟨rfl, rfl⟩
  · exact .inr (.inl ⟨rfl, rfl, rfl⟩)
  · exact .inr (.inr ⟨hs, hraises.code_mem⟩)
  · exact .inl hcompletes.latch

/-- Settles O11, one way to raise after the other. -/
theorem errInfoIsTheOffendingValue : Obligations.ErrInfoIsTheOffendingValue := by
  intro i s t h hs ht
  obtain ⟨e, info, q, hraises, rfl⟩ := raises_of_latched h hs ht
  cases hraises with
  | compose => exact .inl ⟨rfl, rfl⟩
  | embed => exact .inr (.inl ⟨rfl, rfl⟩)
  | stpix => exact .inr (.inr (.inl ⟨.inl rfl, rfl⟩))
  | ldpix => exact .inr (.inr (.inl ⟨.inr rfl, rfl⟩))
  | parse hp => exact .inr (.inr (.inr (.inl ⟨.inl rfl, rfl, parseHdr_error_info hp⟩)))
  | extractHeader _ hp => exact .inr (.inr (.inr (.inl ⟨.inr rfl, rfl, parseHdr_error_info hp⟩)))
  | extractShort hshort => exact .inr (.inr (.inr (.inr (.inl ⟨rfl, rfl, hshort, rfl⟩))))
  | @extractPayload v name hroom hp hshort =>
    have hv : v ≤ 99999999 := (parseHdr_ok_le hp).1
    have hsize : (BitVec.ofNat 32 v).toNat = v := Nat.mod_eq_of_lt (by omega)
    have hinfo : (BitVec.ofNat 32 (30 + v)).toNat = 30 + v := Nat.mod_eq_of_lt (by omega)
    refine .inr (.inr (.inr (.inr (.inr ⟨rfl, rfl, hroom, ?_⟩))))
    rw [State.setLatch_errInfo, State.setLatch_size, deliverHeader_size, hsize, hinfo]
    exact ⟨rfl, hshort, by omega⟩

/-- Settles O12: the state under the latch is the old one, or the old one with EXTRACT's five fields written. -/
theorem raisingCommandsLeaveTheRest : Obligations.RaisingCommandsLeaveTheRest := by
  intro i s t h hs ht
  obtain ⟨e, info, q, hraises, rfl⟩ := raises_of_latched h hs ht
  refine ⟨fun hi => ?others, fun hi => ?extract⟩
  case others =>
    obtain rfl := hraises.eq_of_ne_extract hi
    rfl
  case extract =>
    subst hi
    obtain ⟨hdr, x, v, n, nm, rfl⟩ := hraises.extract_leaves
    exact ⟨hdr, x, v, n, nm, rfl⟩

/-- Settles O50: the fields written, row by row, of every way to raise and to complete. -/
theorem commandsWriteOnlyTheirRow : Obligations.CommandsWriteOnlyTheirRow := by
  intro i s t h
  rcases exec_cases h with ⟨_, _, rfl⟩ | ⟨rfl, rfl⟩ | ⟨_, e, info, q, hraises, rfl⟩ | ⟨_, hcompletes⟩
  · simp
  · simp
  · cases hraises <;> simp
  · cases hcompletes <;> simp

end Sys2Proof.Proofs

/-! ### A step, line by line of the script, and the invariant (R22, R23, R78) -/

namespace Sys2Proof

/-- A command's word has clear ZERO bits and an assigned opcode (R70, R72). -/
@[simp] theorem wordWellFormed_encode (i : Instr) : wordWellFormed (encode i) = true := by
  obtain ⟨_, _, hword, _⟩ := encodingLaw i
  exact hword

/-- A 32-bit row of the opcode table is the word itself. -/
@[simp] theorem tableWord_toNat (w : Word) : tableWord 32 w.toNat = w := by
  rw [tableWord, Nat.mod_eq_of_lt w.isLt, BitVec.ofNat_toNat, BitVec.setWidth_eq]

end Sys2Proof

namespace Sys2Proof.Machine

theorem exists_exec (i : Instr) (s : State) : ∃ t, exec i s = .next t := by
  cases i <;> exact ⟨_, rfl⟩

theorem exists_runCommand (w : Word) (s : State) : ∃ t, runCommand w s = .next t := by
  unfold runCommand
  split
  · exact exists_exec _ s
  · exact ⟨_, rfl⟩

theorem exists_doAction (a : HostAction) (s : State) : ∃ t, doAction a s = .next t := by
  cases a with
  | wr n v =>
    by_cases hn : n = 0
    · subst hn
      exact exists_runCommand v s
    · exact ⟨_, if_neg hn⟩
  | _ => exact ⟨_, rfl⟩

/-- With no line left the run has ended and the state stays (R81). -/
theorem step_nil {s : State} (h : s.script = []) : step s = .next s := by
  simp [step, nextLine, h]

/-- What a write to CMD can do: run the command its word encodes, or raise IllegalCommand (R73, R77). -/
theorem runCommand_cases {w : Word} {s t : State} (h : runCommand w s = .next t) :
    (∃ i, w = encode i ∧ exec i s = .next t) ∨
    (s.err ≠ 0#3 ∧ t = s) ∨ (s.err = 0#3 ∧ t = s.setLatch 5#3 w) := by
  cases hdecode : decode w with
  | some i =>
    rw [runCommand_of_some hdecode] at h
    exact .inl ⟨i, (encode_of_decode hdecode).symm, h⟩
  | none =>
    by_cases hs : s.err = 0#3
    · rw [runCommand_illegal_of_clear hdecode hs] at h
      exact .inr (.inr ⟨hs, (Host.Outcome.next.inj h).symm⟩)
    · rw [runCommand_of_none hdecode, execIllegal, whenClear_of_latched hs] at h
      exact .inr (.inl ⟨hs, (Host.Outcome.next.inj h).symm⟩)

/-- A write of any register keeps everything that is no register the host writes (R20). -/
theorem writeReg_keeps (s : State) (n : Nat) (v : Word) :
    (writeReg s n v).hdr = s.hdr ∧ (writeReg s n v).name = s.name ∧ (writeReg s n v).car = s.car ∧
      (writeReg s n v).pay = s.pay ∧ (writeReg s n v).err = s.err ∧ (writeReg s n v).errInfo = s.errInfo := by
  unfold writeReg
  split <;> simp

/-- The host's own accesses keep the latch and the canonical form of the memories. -/
structure KeepsLatchAndForm (s t : State) : Prop where
  err : t.err = s.err
  errInfo : t.errInfo = s.errInfo
  carWf : Memory.wf s.car → Memory.wf t.car
  payWf : Memory.wf s.pay → Memory.wf t.pay

theorem KeepsLatchAndForm.refl (s : State) : KeepsLatchAndForm s s := ⟨rfl, rfl, id, id⟩

theorem KeepsLatchAndForm.writeReg (s : State) (n : Nat) (v : Word) : KeepsLatchAndForm s (writeReg s n v) := by
  obtain ⟨_, _, hcar, hpay, herr, hinfo⟩ := writeReg_keeps s n v
  exact ⟨herr, hinfo, fun h => by rwa [hcar], fun h => by rwa [hpay]⟩

theorem KeepsLatchAndForm.writeBuffer (s : State) (b : Buffer) (j : Nat) (v : Byte) :
    KeepsLatchAndForm s (writeBuffer s b j v) := by
  cases b <;> exact ⟨rfl, rfl, id, id⟩

theorem KeepsLatchAndForm.setPay (s : State) (k : Word) (v : Byte) :
    KeepsLatchAndForm s (s.setPay (payWrite s.pay k v)) :=
  ⟨rfl, rfl, id, fun h => payWrite_wf h k v⟩

theorem KeepsLatchAndForm.setCar (s : State) (row col : Dim) (p : Pixel) :
    KeepsLatchAndForm s (s.setCar (carWrite s.car row col p)) :=
  ⟨rfl, rfl, fun h => carWrite_wf h row col p, id⟩

theorem KeepsLatchAndForm.withLastRead {s : State} {body : Word → State} (h : ∀ v, KeepsLatchAndForm s (body v)) :
    KeepsLatchAndForm s (withLastRead s body) := by
  unfold Machine.withLastRead
  split
  · exact .refl s
  · exact h _

/-- What an action of the host can do: run a command, reset the block, or leave the latch and the form. -/
theorem doAction_cases {a : HostAction} {s t : State} (h : doAction a s = .next t) :
    (∃ w, a = .wr 0 w ∧ runCommand w s = .next t) ∨ (a = .reset ∧ t = hostReset s) ∨ KeepsLatchAndForm s t := by
  cases a with
  | wr n v =>
    by_cases hn : n = 0
    · subst hn
      exact .inl ⟨v, rfl, h⟩
    · obtain rfl := Host.Outcome.next.inj ((if_neg hn).symm.trans h)
      exact .inr (.inr (.writeReg s n v))
  | reset => exact .inr (.inl ⟨rfl, (Host.Outcome.next.inj h).symm⟩)
  | wrb b j v =>
    obtain rfl := Host.Outcome.next.inj h
    exact .inr (.inr (.writeBuffer s b j v))
  | wrp k v =>
    obtain rfl := Host.Outcome.next.inj h
    exact .inr (.inr (.setPay s k v))
  | wrc r c v0 v1 v2 =>
    obtain rfl := Host.Outcome.next.inj h
    exact .inr (.inr (.setCar s r c _))
  | wrbRead b j =>
    obtain rfl := Host.Outcome.next.inj h
    exact .inr (.inr (.withLastRead fun _ => .writeBuffer s b j _))
  | wrpRead k =>
    obtain rfl := Host.Outcome.next.inj h
    exact .inr (.inr (.withLastRead fun _ => .setPay s k _))
  | _ =>
    obtain rfl := Host.Outcome.next.inj h
    exact .inr (.inr ⟨rfl, rfl, id, id⟩)

/-! #### The invariant -/

theorem KeepsLatchAndForm.legal {s t : State} (h : KeepsLatchAndForm s t) (hs : LegalState s) : LegalState t where
  errLegal := h.err ▸ hs.errLegal
  errInfoClear := by
    rw [h.err, h.errInfo]
    exact hs.errInfoClear
  carWf := h.carWf hs.carWf
  payWf := h.payWf hs.payWf

theorem LegalState.setLatch {s : State} (hs : LegalState s) (e : ErrorKind) (info : Word) :
    LegalState (s.setLatch (errorCode e) info) where
  errLegal := errorCode_le e
  errInfoClear := fun h => absurd h (errorCode_ne_zero e)
  carWf := hs.carWf
  payWf := hs.payWf

theorem LegalState.clearLatch {s : State} (hs : LegalState s) : LegalState (s.setLatch 0#3 0#32) where
  errLegal := Nat.zero_le 5
  errInfoClear := fun _ => rfl
  carWf := hs.carWf
  payWf := hs.payWf

/-- A command that raises writes neither CAR nor PAY. -/
theorem Raises.keeps {s q : State} {i : Instr} {e : ErrorKind} {info : Word} (h : Raises s i e info q) :
    KeepsLatchAndForm s q := by
  cases h <;> exact ⟨by simp, by simp, by simp, by simp⟩

/-- STPIX, EMBED and EXTRACT write the memories in canonical form; no other command writes them. -/
theorem Completes.keeps {s t : State} {i : Instr} (h : Completes s i t) : KeepsLatchAndForm s t := by
  obtain ⟨herr, hinfo⟩ := h.latch
  refine ⟨herr, hinfo, fun hcar => ?_, fun hpay => ?_⟩
  · cases h with
    | stpix => exact setPixelAt_wf hcar _ _ _
    | embed => exact embedTurns_wf hcar _
    | _ => simpa using hcar
  · cases h with
    | extract => simpa using extractTurns_wf hpay _
    | _ => simpa using hpay

theorem legalState_of_exec {i : Instr} {s t : State} (hs : LegalState s) (h : exec i s = .next t) : LegalState t := by
  rcases exec_cases h with ⟨_, _, rfl⟩ | ⟨_, rfl⟩ | ⟨_, e, info, q, hraises, rfl⟩ | ⟨_, hcompletes⟩
  · exact hs
  · exact hs.clearLatch
  · exact (hraises.keeps.legal hs).setLatch e info
  · exact hcompletes.keeps.legal hs

theorem legalState_of_runCommand {w : Word} {s t : State} (hs : LegalState s) (h : runCommand w s = .next t) :
    LegalState t := by
  rcases runCommand_cases h with ⟨i, _, hexec⟩ | ⟨_, rfl⟩ | ⟨_, rfl⟩
  · exact legalState_of_exec hs hexec
  · exact hs
  · exact hs.setLatch .illegalCommand w

theorem legalState_of_doAction {a : HostAction} {s t : State} (hs : LegalState s) (h : doAction a s = .next t) :
    LegalState t := by
  rcases doAction_cases h with ⟨w, _, hrun⟩ | ⟨_, rfl⟩ | hkeeps
  · exact legalState_of_runCommand hs hrun
  · exact ⟨Nat.zero_le 5, fun _ => rfl, hs.carWf, hs.payWf⟩
  · exact hkeeps.legal hs

end Sys2Proof.Machine

/-! ### The statements about a step and about every run -/

namespace Sys2Proof.Proofs

open Sys2Proof Sys2Proof.Machine

/-- Settles O2: the encoding laws of every command, and the fields of a word that decodes. -/
theorem decodeAndEncodeAgree : Obligations.DecodeAndEncodeAgree :=
  ⟨fun i _ => ⟨decode_encode i, wordWellFormed_encode i⟩, fun _ _ => encode_of_decode⟩

/-- Settles O4: the word of the line, or of the table's row, is the command's word. -/
theorem stepRunsDecodedCommand : Obligations.StepRunsDecodedCommand := by
  refine ⟨fun s w rest i hscript hdecode => ?line, fun s i => ?row⟩
  case line => rw [step_wr_cmd hscript, runCommand_of_some hdecode]
  case row =>
    rw [State.withFetchWord, tableWord_toNat, withCommand, step_wr_cmd (State.setScript_script s _),
      runCommand_of_some (decode_encode i), State.setScript_setScript, State.setScript_self]

/-- Settles O6: every command, every host action and the empty script answer a next state. -/
theorem everyCommandAndStepCompletes : Obligations.EveryCommandAndStepCompletes := by
  refine ⟨exists_exec, fun s => ?_, fun _ => step_nil⟩
  cases hscript : s.script with
  | nil => exact ⟨s, step_nil hscript⟩
  | cons a rest =>
    rw [step_cons hscript]
    exact exists_doAction a _

/-- Settles O48, by what the next line can do: a command, a reset, or an access that keeps the latch and writes the
memories in canonical form. -/
theorem everyStepKeepsTheInvariant : Obligations.EveryStepKeepsTheInvariant := by
  intro s t hs h
  cases hscript : s.script with
  | nil =>
    obtain rfl := Host.Outcome.next.inj ((step_nil hscript).symm.trans h)
    exact hs
  | cons a rest =>
    rw [step_cons hscript] at h
    have hrest : LegalState (s.setScript rest) := ⟨hs.errLegal, hs.errInfoClear, hs.carWf, hs.payWf⟩
    exact legalState_of_doAction hrest h

/-- Settles O49: the latch is 0 and the two memories list nothing. -/
theorem resetMeetsTheInvariant : Obligations.ResetMeetsTheInvariant :=
  ⟨Nat.zero_le 5, fun _ => rfl, Memory.wf_nil, Memory.wf_nil⟩

/-- Settles O9: with an error latched the only command that does anything is CLRERR, and of the host's other actions
only a reset writes the latch. -/
theorem firstErrorIsKept : Obligations.FirstErrorIsKept := by
  intro s t hs h
  cases hscript : s.script with
  | nil =>
    obtain rfl := Host.Outcome.next.inj ((step_nil hscript).symm.trans h)
    exact .inl ⟨rfl, rfl⟩
  | cons a rest =>
    rw [step_cons hscript] at h
    rcases doAction_cases h with ⟨w, rfl, hrun⟩ | ⟨rfl, rfl⟩ | hkeeps
    · by_cases hw : w = encode .clrerr
      · subst hw
        obtain rfl := Host.Outcome.next.inj ((runCommand_clrerr _).symm.trans hrun)
        exact .inr (.inl ⟨rest, rfl, rfl, rfl⟩)
      · obtain rfl := Host.Outcome.next.inj ((runCommand_of_latched (by simpa using hs) hw).symm.trans hrun)
        exact .inl ⟨rfl, rfl⟩
    · exact .inr (.inr ⟨rest, rfl, rfl, rfl⟩)
    · exact .inl ⟨hkeeps.err, hkeeps.errInfo⟩

end Sys2Proof.Proofs

/-! ### The carrier: what EMBED's loop does to each pixel, and a carrier of no pixel (R65, R131, R150) -/

namespace Sys2Proof.Machine

/-- EMBED's loop does to each pixel one of two things, whatever the carrier: it packs a byte or it does nothing
(R150). -/
theorem carRead_embedTurns_cases {rows cols : Dim} (b : Nat → Byte) {n : Nat} (hn : n ≤ rows.toNat * cols.toNat)
    (row col : Dim) :
    (∃ i < n, ∀ car, carRead (embedTurns cols b car n) row col = packPixel (carRead car row col) (b i)) ∨
    (∀ car, carRead (embedTurns cols b car n) row col = carRead car row col) := by
  by_cases h : ∃ i < n, row = rasterRow cols i ∧ col = rasterCol cols i
  · obtain ⟨i, hi, rfl, rfl⟩ := h
    refine .inl ⟨i, hi, fun car => ?_⟩
    have hpixel := pixelAt_embedTurns b car hn (j := i) (by omega)
    rwa [if_pos hi] at hpixel
  · exact .inr fun car => carRead_embedTurns_other cols b car n fun i hi hrc => h ⟨i, hi, hrc⟩

/-- Running EMBED's loop again on its own carrier changes nothing (R120). -/
theorem embedTurns_embedTurns {rows cols : Dim} (b : Nat → Byte) {car : Memory 24} (hcar : Memory.wf car) {n : Nat}
    (hn : n ≤ rows.toNat * cols.toNat) :
    embedTurns cols b (embedTurns cols b car n) n = embedTurns cols b car n := by
  refine car_ext (embedTurns_wf (embedTurns_wf hcar n) n) (embedTurns_wf hcar n) fun row col => ?_
  rcases carRead_embedTurns_cases b hn row col with ⟨i, _, hpack⟩ | hkeep
  · rw [hpack, hpack, packPixel_packPixel]
  · rw [hkeep]

/-- Two pixels that agree in the bits PACK does not touch (R115). -/
def SameHighBits (p q : Pixel) : Prop :=
  (pixelCh0 p).extractLsb' 3 5 = (pixelCh0 q).extractLsb' 3 5 ∧
  (pixelCh1 p).extractLsb' 3 5 = (pixelCh1 q).extractLsb' 3 5 ∧
  (pixelCh2 p).extractLsb' 2 6 = (pixelCh2 q).extractLsb' 2 6

theorem SameHighBits.refl (p : Pixel) : SameHighBits p p := ⟨rfl, rfl, rfl⟩

theorem sameHighBits_packPixel (p : Pixel) (n : Byte) : SameHighBits (packPixel p n) p := by
  obtain ⟨_, _, _, hkept⟩ := Proofs.packAndUnpackLaws p n n
  exact hkept

/-- A carrier with no row or no column has no pixel (R131). -/
theorem npix_eq_zero {s : State} (h : s.rows = 0#16 ∨ s.cols = 0#16) : s.npix = 0 := by
  rcases h with h | h <;> simp [State.npix, h]

/-- The commands that touch the carrier raise on one of no pixel (R134, R135, R152, R153). -/
theorem exec_of_npix_eq_zero {s : State} (hs : s.err = 0#3) (hnone : s.npix = 0) :
    exec .ldpix s = .next (s.setLatch 4#3 s.idx) ∧ exec .stpix s = .next (s.setLatch 2#3 s.idx) ∧
    exec .embed s = .next (s.setLatch 2#3 s.plen) ∧ exec .extract s = .next (s.setLatch 4#3 30#32) :=
  ⟨exec_ldpix_out_of_range hs (by omega), exec_stpix_out_of_range hs (by omega),
    exec_embed_of_overflow hs (by omega), exec_extract_of_short hs (by omega)⟩

theorem latches_of_npix_eq_zero {s : State} (hs : s.err = 0#3) (hnone : s.npix = 0) :
    ∀ i ∈ [Instr.ldpix, .stpix, .embed, .extract], ∃ u, exec i s = .next u ∧ u.err ≠ 0#3 := by
  obtain ⟨hldpix, hstpix, hembed, hextract⟩ := exec_of_npix_eq_zero hs hnone
  simp only [List.forall_mem_cons, List.not_mem_nil, false_implies, implies_true, and_true]
  exact ⟨⟨_, hldpix, by simp⟩, ⟨_, hstpix, by simp⟩, ⟨_, hembed, by simp⟩, ⟨_, hextract, by simp⟩⟩

/-! #### Two carriers that agree inside the grid -/

/-- The two carriers hold the same pixels at every row below `rows` and column below `cols`. -/
def AgreeInside (rows cols : Dim) (m m' : Memory 24) : Prop :=
  ∀ row col : Dim, row.toNat < rows.toNat → col.toNat < cols.toNat → carRead m row col = carRead m' row col

/-- The two carriers hold the same pixels at every other row and column. -/
def AgreeOutside (rows cols : Dim) (m m' : Memory 24) : Prop :=
  ∀ row col : Dim, ¬ (row.toNat < rows.toNat ∧ col.toNat < cols.toNat) → carRead m row col = carRead m' row col

section

variable {rows cols : Dim} {m m' : Memory 24}

theorem AgreeOutside.refl : AgreeOutside rows cols m m := fun _ _ _ => rfl

theorem AgreeInside.pixelAt (h : AgreeInside rows cols m m') {i : Nat} (hi : i < rows.toNat * cols.toNat) :
    pixelAt cols m i = pixelAt cols m' i := by
  obtain ⟨hrow, hcol, hrows, hcols⟩ := raster_toNat hi
  exact h _ _ (hrow ▸ hrows) (hcol ▸ hcols)

theorem AgreeInside.hiddenByte (h : AgreeInside rows cols m m') {i : Nat} (hi : i < rows.toNat * cols.toNat) :
    hiddenByte cols m i = hiddenByte cols m' i := by
  rw [Machine.hiddenByte, h.pixelAt hi, Machine.hiddenByte]

theorem AgreeInside.parseHdr (h : AgreeInside rows cols m m') (hroom : 30 ≤ rows.toNat * cols.toNat) :
    parseHdr (Machine.hiddenByte cols m) = parseHdr (Machine.hiddenByte cols m') :=
  parseHdr_congr fun _ hj => h.hiddenByte (Nat.lt_of_lt_of_le hj hroom)

theorem AgreeInside.hdrOf (h : AgreeInside rows cols m m') (hroom : 30 ≤ rows.toNat * cols.toNat) :
    hdrOf (Machine.hiddenByte cols m) = hdrOf (Machine.hiddenByte cols m') :=
  buffer_ext fun j hj => by
    rw [bufRead_hdrOf _ hj, bufRead_hdrOf _ hj, h.hiddenByte (Nat.lt_of_lt_of_le hj hroom)]

theorem AgreeInside.extractTurns (h : AgreeInside rows cols m m') (pay : Memory 8) {n : Nat}
    (hn : 30 + n ≤ rows.toNat * cols.toNat) : extractTurns cols m pay n = extractTurns cols m' pay n := by
  induction n with
  | zero => rfl
  | succ n ih => rw [Machine.extractTurns, ih (by omega), h.hiddenByte (by omega), Machine.extractTurns]

theorem AgreeInside.setPixelAt (h : AgreeInside rows cols m m') (i : Nat) (p : Pixel) :
    AgreeInside rows cols (setPixelAt cols m i p) (setPixelAt cols m' i p) := fun row col hrow hcol => by
  rw [carRead_setPixelAt, carRead_setPixelAt, h row col hrow hcol]

theorem AgreeInside.embedTurns (h : AgreeInside rows cols m m') (b : Nat → Byte) {n : Nat}
    (hn : n ≤ rows.toNat * cols.toNat) :
    AgreeInside rows cols (embedTurns cols b m n) (embedTurns cols b m' n) := fun row col hrow hcol => by
  rcases carRead_embedTurns_cases b hn row col with ⟨i, _, hpack⟩ | hkeep
  · rw [hpack, hpack, h row col hrow hcol]
  · rw [hkeep, hkeep, h row col hrow hcol]

/-- A write of a pixel in range does not reach the pixels outside the grid. -/
theorem agreeOutside_setPixelAt (m : Memory 24) {i : Nat} (hi : i < rows.toNat * cols.toNat) (p : Pixel) :
    AgreeOutside rows cols (setPixelAt cols m i p) m := fun row col hout => by
  obtain ⟨hrow, hcol, hrows, hcols⟩ := raster_toNat hi
  rw [carRead_setPixelAt, if_neg]
  rintro ⟨rfl, rfl⟩
  exact hout ⟨hrow ▸ hrows, hcol ▸ hcols⟩

theorem agreeOutside_embedTurns (b : Nat → Byte) (m : Memory 24) {n : Nat} (hn : n ≤ rows.toNat * cols.toNat) :
    AgreeOutside rows cols (embedTurns cols b m n) m := fun _ _ hout => carRead_embedTurns_outside b m hn hout

end

theorem State.setHdr_setCar (s : State) (v : Vector Byte 30) (m : Memory 24) :
    (s.setHdr v).setCar m = (s.setCar m).setHdr v := rfl

theorem deliverHeader_setCar (s : State) (v : Nat) (name : List Byte) (m : Memory 24) :
    (deliverHeader v name s).setCar m = deliverHeader v name (s.setCar m) := by
  apply State.ext <;> simp

section

variable {s : State} {m : Memory 24} (h : AgreeInside s.rows s.cols m s.car) {i : Instr}

include h

/-- A command raises the same error whatever the pixels outside the grid hold. -/
theorem Raises.setCar {e : ErrorKind} {info : Word} {q : State} (hr : Raises s i e info q) :
    q.car = s.car ∧ Raises (s.setCar m) i e info (q.setCar m) := by
  cases hr with
  | compose hsize => exact ⟨rfl, .compose hsize⟩
  | embed hover => exact ⟨rfl, .embed hover⟩
  | stpix hr => exact ⟨rfl, .stpix hr⟩
  | ldpix hr => exact ⟨rfl, .ldpix hr⟩
  | parse hp => exact ⟨rfl, .parse hp⟩
  | extractShort hshort => exact ⟨rfl, .extractShort hshort⟩
  | extractHeader hroom hp =>
    have hr := Raises.extractHeader (s := s.setCar m) hroom ((h.parseHdr hroom).trans hp)
    rw [State.setCar_cols, State.setCar_car, h.hdrOf hroom] at hr
    generalize hdrOf (hiddenByte s.cols s.car) = hdr at hr ⊢
    exact ⟨by simp, hr⟩
  | extractPayload hroom hp hshort =>
    have hr := Raises.extractPayload (s := s.setCar m) hroom ((h.parseHdr hroom).trans hp) hshort
    rw [State.setCar_cols, State.setCar_car, h.hdrOf hroom] at hr
    generalize hdrOf (hiddenByte s.cols s.car) = hdr at hr ⊢
    exact ⟨by simp, hr⟩

/-- A command completes the same way whatever the pixels outside the grid hold, and leaves those as they were. -/
theorem Completes.setCar {t : State} (hc : Completes s i t) : ∃ m', Completes (s.setCar m) i (t.setCar m') ∧
    AgreeInside s.rows s.cols m' t.car ∧ AgreeOutside s.rows s.cols t.car s.car ∧
    AgreeOutside s.rows s.cols m' m := by
  cases hc with
  | nop => exact ⟨m, .nop, h, .refl, .refl⟩
  | split => exact ⟨m, .split, h, .refl, .refl⟩
  | merge => exact ⟨m, .merge, h, .refl, .refl⟩
  | pack => exact ⟨m, .pack, h, .refl, .refl⟩
  | unpack => exact ⟨m, .unpack, h, .refl, .refl⟩
  | inext => exact ⟨m, .inext, h, .refl, .refl⟩
  | irst => exact ⟨m, .irst, h, .refl, .refl⟩
  | compose hsize =>
    refine ⟨m, ?_, by simpa using h, by simpa using .refl, .refl⟩
    rw [State.setHdr_setCar]
    exact .compose (s := s.setCar m) hsize
  | parse hp =>
    refine ⟨m, ?_, by simpa using h, by simpa using .refl, .refl⟩
    rw [deliverHeader_setCar]
    exact .parse (s := s.setCar m) hp
  | ldpix hr =>
    rw [← h.pixelAt hr]
    exact ⟨m, .ldpix (s := s.setCar m) hr, h, .refl, .refl⟩
  | stpix hr =>
    exact ⟨_, .stpix (s := s.setCar m) hr, h.setPixelAt _ _, agreeOutside_setPixelAt _ hr _,
      agreeOutside_setPixelAt _ hr _⟩
  | embed hfits =>
    exact ⟨_, .embed (s := s.setCar m) hfits, h.embedTurns _ hfits, agreeOutside_embedTurns _ _ hfits,
      agreeOutside_embedTurns _ _ hfits⟩
  | @extract v name hp hfits =>
    have hroom : 30 ≤ s.npix := by omega
    have hc := Completes.extract (s := s.setCar m) ((h.parseHdr hroom).trans hp) hfits
    rw [State.setCar_cols, State.setCar_car, State.setCar_pay, h.hdrOf hroom, h.extractTurns s.pay hfits,
      ← State.setHdr_setCar, ← deliverHeader_setCar] at hc
    exact ⟨m, hc, by simpa using h, by simpa using .refl, .refl⟩

/-- A command, run on two carriers that agree inside the grid. -/
theorem exec_setCar (i : Instr) : ∃ t m', exec i s = .next t ∧ exec i (s.setCar m) = .next (t.setCar m') ∧
    AgreeInside s.rows s.cols m' t.car ∧ AgreeOutside s.rows s.cols t.car s.car ∧
    AgreeOutside s.rows s.cols m' m := by
  obtain ⟨t, ht⟩ := exists_exec i s
  rcases exec_cases ht with ⟨hs, hi, rfl⟩ | ⟨rfl, rfl⟩ | ⟨hs, e, info, q, hraises, rfl⟩ | ⟨hs, hcompletes⟩
  · exact ⟨_, m, ht, exec_of_latched hs hi, h, .refl, .refl⟩
  · exact ⟨_, m, ht, exec_clrerr _, h, .refl, .refl⟩
  · obtain ⟨hcar, hraises'⟩ := hraises.setCar h
    refine ⟨_, m, ht, exec_of_raises (s := s.setCar m) hs hraises', ?_, ?_, .refl⟩
    · rwa [State.setLatch_car, hcar]
    · rw [State.setLatch_car, hcar]
      exact .refl
  · obtain ⟨m', hcompletes', hagree⟩ := hcompletes.setCar h
    exact ⟨t, m', ht, exec_of_completes (s := s.setCar m) hs hcompletes', hagree⟩

end

end Sys2Proof.Machine

/-! ### The statements about the lanes, the size field, the carrier, HIDE and reset -/

namespace Sys2Proof.Proofs

open Sys2Proof Sys2Proof.Machine

/-- Settles O21, lane by lane. -/
theorem lanesDoNotInteract : Obligations.LanesDoNotInteract := by
  intro p q n m
  obtain ⟨hp0, hp1, hp2⟩ := groups_unpackPixel p
  obtain ⟨hq0, hq1, hq2⟩ := groups_unpackPixel q
  refine ⟨fun hch => ⟨fun hg => ?_, ?_⟩, fun hch => ⟨fun hg => ?_, ?_⟩, fun hch => ⟨fun hg => ?_, ?_⟩⟩
  · rw [pixelCh0_packPixel, pixelCh0_packPixel, hch, hg]
  · rw [hp0, hq0, hch]
  · rw [pixelCh1_packPixel, pixelCh1_packPixel, hch, hg]
  · rw [hp1, hq1, hch]
  · rw [pixelCh2_packPixel, pixelCh2_packPixel, hch, hg]
  · rw [hp2, hq2, hch]

/-- Settles O26: no index is below a pixel count of 0. -/
theorem emptyCarrierAlwaysRaises : Obligations.EmptyCarrierAlwaysRaises :=
  fun _ hs hnone => exec_of_npix_eq_zero hs (npix_eq_zero hnone)

/-- Settles O30: the eight digits of `dec8` weigh the number, and eight digits weigh at most 99,999,999. -/
theorem sizeFieldRoundTrip : Obligations.SizeFieldRoundTrip :=
  ⟨fun _ hv => undec8_of_dec8 hv fun _ _ => rfl, fun _ _ => undec8_le⟩

/-- Settles O36: the second EMBED packs the same bytes into the same pixels, and the byte packed last wins. -/
theorem embedTwiceIsOnce : Obligations.EmbedTwiceIsOnce := by
  intro s t u hs hcar ht hu
  rcases Nat.lt_or_ge s.npix (30 + s.plen.toNat) with hover | hfits
  · obtain rfl := Host.Outcome.next.inj ((exec_embed_of_overflow hs hover).symm.trans ht)
    obtain rfl := Host.Outcome.next.inj ((exec_of_latched (by simp) (by decide)).symm.trans hu)
    rfl
  · obtain rfl := Host.Outcome.next.inj ((exec_embed_of_fits hs hfits).symm.trans ht)
    rw [exec_embed_of_fits (by exact hs) (by exact hfits)] at hu
    obtain rfl := Host.Outcome.next.inj hu
    exact embedTurns_embedTurns _ hcar hfits

/-- Settles O37: EMBED packs a byte into a pixel or leaves it. -/
theorem embedKeepsTheHighBits : Obligations.EmbedKeepsTheHighBits := by
  intro s t row col h
  show SameHighBits (carRead t.car row col) (carRead s.car row col)
  rcases exec_cases h with ⟨_, _, rfl⟩ | ⟨hi, _⟩ | ⟨_, e, info, q, hraises, rfl⟩ | ⟨_, hcompletes⟩
  · exact .refl _
  · cases hi
  · obtain rfl := hraises.eq_of_ne_extract (by decide)
    exact .refl _
  · cases hcompletes with
    | embed hfits =>
      rw [State.setIdx_car, State.setCar_car]
      rcases carRead_embedTurns_cases (streamByte s.hdr s.pay) hfits row col with ⟨i, _, hpack⟩ | hkeep
      · rw [hpack]
        exact sameHighBits_packPixel _ _
      · rw [hkeep]
        exact .refl _

/-- Settles O51: what a command reads of the carrier lies inside the grid, and so does what it writes. -/
theorem commandsStayInsideTheCarrier : Obligations.CommandsStayInsideTheCarrier := by
  intro i s m h
  obtain ⟨t, m', ht, ht', hinside, houtside, houtside'⟩ := exec_setCar h i
  exact ⟨t, t.setCar m', ht, ht', rfl, fun row col => ⟨fun hin => hinside row col hin.1 hin.2,
    fun hout => ⟨houtside row col hout, houtside' row col hout⟩⟩⟩

/-- Settles O42: COMPOSE raises, and the gate keeps EMBED from running. -/
theorem hideStopsAtTheFirstError : Obligations.HideStopsAtTheFirstError := by
  intro s rest hs hsize
  calc core.run 2 (s.setScript (hide ++ rest))
      = core.run 1 ((s.setLatch 1#3 s.size).setScript (command .embed :: rest)) :=
        run_exec 1 (exec_compose_of_overflow hs hsize) _
    _ = .next ((s.setLatch 1#3 s.size).setScript rest) :=
        run_exec 0 (exec_of_latched (by simp) (by decide)) rest

/-- Settles O47: every register of the two states is 0, and a carrier of 0 rows has no pixel. -/
theorem resetClearsTheRegisters : Obligations.ResetClearsTheRegisters := by
  have hregs : ∀ n, readReg State.reset n = 0#32 := fun n => by
    unfold readReg
    split <;> rfl
  refine ⟨⟨hregs, rfl, latches_of_npix_eq_zero rfl rfl⟩, fun s rest hscript => ?_⟩
  refine ⟨hostReset (s.setScript rest), step_cons hscript, hregs, rfl, rfl, rfl, rfl, rfl, rfl, rfl, rfl, rfl, rfl,
    rfl, rfl, rfl, rfl, rfl, rfl, latches_of_npix_eq_zero rfl rfl⟩

end Sys2Proof.Proofs

/-! ### The host's port: registers, buffers, memories (R20, R21, R51 to R53, R59) -/

namespace Sys2Proof.Machine

/-! #### Registers -/

/-- STATUS, ERRINFO, CMD and the numbers past the last register ignore a write of the register port (R20). -/
theorem writeReg_of_ignored {n : Nat} (h : n < 3 ∨ 12 ≤ n) (s : State) (v : Word) : writeReg s n v = s := by
  unfold writeReg
  split <;> simp at h ⊢

/-- CMD and the numbers past the last register read 0 (R20, R21). -/
theorem readReg_of_unmapped {n : Nat} (h : n = 0 ∨ 12 ≤ n) (s : State) : readReg s n = 0#32 := by
  unfold readReg
  split <;> simp at h ⊢

/-- A write of one register is not seen in another (R20). -/
theorem readReg_writeReg_of_ne {n m : Nat} (h : n ≠ m) (s : State) (v : Word) :
    readReg (writeReg s n v) m = readReg s m := by
  by_cases hm : 12 ≤ m
  · rw [readReg_of_unmapped (.inr hm), readReg_of_unmapped (.inr hm)]
  by_cases hn : n < 3 ∨ 12 ≤ n
  · rw [writeReg_of_ignored hn]
  · have hlow : 3 ≤ n := by omega
    have hhigh : n < 12 := by omega
    have hm : m < 12 := by omega
    interval_cases n <;> interval_cases m <;> simp [readReg, writeReg] at h ⊢

/-- A register of `w` bits written with a word reads back the word's low bits, and reads below `2^w` (R20). -/
theorem toNat_narrowRegister {w : Nat} (hw : w ≤ 32) (v : Word) (x : BitVec w) :
    ((v.setWidth w).setWidth 32).toNat = v.toNat % 2 ^ w ∧ (x.setWidth 32).toNat < 2 ^ w := by
  rw [BitVec.toNat_setWidth_of_le hw, BitVec.toNat_setWidth_of_le hw, BitVec.toNat_setWidth]
  exact ⟨rfl, x.isLt⟩

/-- The same for a register of all 32 bits. -/
theorem toNat_wideRegister (v x : Word) : v.toNat = v.toNat % 2 ^ 32 ∧ x.toNat < 2 ^ 32 :=
  ⟨(Nat.mod_eq_of_lt v.isLt).symm, x.isLt⟩

/-! #### Buffers -/

theorem bufWrite_of_le {n : Nat} (b : Vector Byte n) {j : Nat} (h : n ≤ j) (v : Byte) : bufWrite b j v = b :=
  buffer_ext fun k _ => by rw [bufRead_bufWrite, if_neg (by omega)]

/-! #### Reads -/

/-- What a read line returns in a state; `none` for the lines that are no read (R20, R51 to R53). -/
def readValue (s : State) : HostAction → Option Word
  | .rd n => some (readReg s n)
  | .rdb b j => some ((readBuffer s b j).setWidth 32)
  | .rdp k => some ((payRead s.pay k).setWidth 32)
  | .rdc r c => some ((carRead s.car r c).setWidth 32)
  | _ => none

/-- No read depends on the script. -/
@[simp] theorem readValue_setScript (s : State) (l : List HostAction) (a : HostAction) :
    readValue (s.setScript l) a = readValue s a := by
  cases a with
  | rdb b j => rw [readValue, readBuffer_setScript, readValue]
  | _ => rfl

/-- No read depends on what was read before. -/
@[simp] theorem readValue_setReadBack (s : State) (r : List Word) (a : HostAction) :
    readValue (s.setReadBack r) a = readValue s a := by
  cases a with
  | rdb b j => cases b <;> rfl
  | _ => rfl

/-- A read line takes its line and records the value, and changes nothing else (R59). -/
theorem step_read {s : State} {a : HostAction} {rest : List HostAction} {v : Word} (hscript : s.script = a :: rest)
    (hv : readValue s a = some v) : step s = .next ((s.setScript rest).setReadBack (v :: s.readBack)) := by
  rw [← readValue_setScript s rest] at hv
  rw [step_cons hscript]
  cases a with
  | rd n | rdb b j | rdp k | rdc r c =>
    obtain rfl := Option.some.inj hv
    rfl
  | _ => cases hv

/-- A pixel as the host reads it: channel 2 uppermost (R51). -/
theorem pixel_toNat (p : Pixel) :
    p.toNat = (pixelCh2 p).toNat * 65536 + (pixelCh1 p).toNat * 256 + (pixelCh0 p).toNat := by
  have hlt := p.isLt
  simp only [pixelCh0, pixelCh1, pixelCh2, BitVec.extractLsb'_toNat, Nat.shiftRight_eq_div_pow]
  omega

/-- The word of a pixel, from its channels. -/
theorem setWidth_pixel_eq {p : Pixel} {v : Word}
    (h : v.toNat = (pixelCh2 p).toNat * 65536 + (pixelCh1 p).toNat * 256 + (pixelCh0 p).toNat) :
    p.setWidth 32 = v :=
  BitVec.eq_of_toNat_eq (by rw [h, BitVec.toNat_setWidth_of_le (by decide), pixel_toNat])

end Sys2Proof.Machine

/-! ### The statements about the host's port -/

namespace Sys2Proof.Proofs

open Sys2Proof Sys2Proof.Machine

/-- Settles O43: the port of each register, and that no other is touched. -/
theorem registerPortKeepsTheLowBits : Obligations.RegisterPortKeepsTheLowBits := by
  intro s v
  refine ⟨fun q n rest hscript => ?port, fun n => writeReg_keeps s n v, ?reads,
    fun n m hnm => readReg_writeReg_of_ne hnm s v, fun n hn => writeReg_of_ignored (by omega) s v,
    fun n hn => readReg_of_unmapped hn s, (toNat_narrowRegister (by decide) v s.err).2⟩
  case port =>
    have hwrite : ∀ k ≠ 0, n = k → step q = .next (writeReg (q.setScript rest) k v) := by
      rintro k hk rfl
      exact step_wr_reg hscript hk
    refine ⟨hwrite 3 (by decide), hwrite 4 (by decide), hwrite 5 (by decide), hwrite 6 (by decide),
      hwrite 7 (by decide), hwrite 8 (by decide), hwrite 9 (by decide), hwrite 10 (by decide), hwrite 11 (by decide),
      fun hn => ?_, step_wr_reg hscript⟩
    rw [step_wr_reg hscript (by omega), writeReg_of_ignored (by omega)]
  case reads =>
    simp only [List.forall_mem_cons, List.not_mem_nil, false_implies, implies_true, and_true]
    exact ⟨toNat_narrowRegister (by decide) v s.rows, toNat_narrowRegister (by decide) v s.cols,
      toNat_wideRegister v s.size, toNat_wideRegister v s.plen, toNat_wideRegister v s.idx,
      toNat_narrowRegister (by decide) v s.byte, toNat_narrowRegister (by decide) v s.triple,
      toNat_narrowRegister (by decide) v s.pix, toNat_narrowRegister (by decide) v s.nlen⟩

/-- Settles O44: a WRB line is a write of one byte of one buffer, which an index outside leaves. -/
theorem bufferPortReadsBack : Obligations.BufferPortReadsBack := by
  intro s v j k
  refine ⟨fun q rest => ⟨fun hscript => ?hdr, fun hscript => ?name, fun _ => step_wrb⟩, bufRead_bufWrite _ _ _ _,
    bufRead_bufWrite _ _ _ _, fun hj => ⟨?hdrOutside, bufRead_of_le _ hj⟩,
    fun hj => ⟨?nameOutside, bufRead_of_le _ hj⟩, rfl, rfl⟩
  case hdr => exact ⟨_, step_wrb hscript, fun i => bufRead_bufWrite q.hdr j i v, fun hj => bufWrite_of_le q.hdr hj v⟩
  case name =>
    exact ⟨_, step_wrb hscript, fun i => bufRead_bufWrite q.name j i v, fun hj => bufWrite_of_le q.name hj v⟩
  case hdrOutside =>
    rw [writeBuffer, bufWrite_of_le _ hj]
    rfl
  case nameOutside =>
    rw [writeBuffer, bufWrite_of_le _ hj]
    rfl

/-- Settles O45: one element of one memory is written, and the channels of the pixel are those of the line. -/
theorem memoryPortReadsBack : Obligations.MemoryPortReadsBack := by
  refine ⟨fun s rest k b hscript => ⟨_, step_cons hscript, fun j => payRead_payWrite _ _ _ _⟩,
    fun s rest r c v0 v1 v2 hscript => ⟨_, step_cons hscript, ?written, fun r' c' hother => ?kept⟩⟩
  case written =>
    rw [carRead_carWrite, if_pos ⟨rfl, rfl⟩]
    exact ⟨pixelCh0_pixelOf v0 v1 v2, pixelCh1_pixelOf v0 v1 v2, pixelCh2_pixelOf v0 v1 v2⟩
  case kept => rw [carRead_carWrite, if_neg hother, State.setScript_car]

/-- Settles O46: each line's value is the one the model reads, and neither the script nor the readings matter to it. -/
theorem readsHaveNoSideEffect : Obligations.ReadsHaveNoSideEffect := by
  refine ⟨fun s a rest hscript v hv => step_read hscript ?value, fun s t a rest hscript ha ht => ?again⟩
  case value =>
    rcases hv with ⟨rfl, rfl⟩ | ⟨rfl, rfl⟩ | ⟨rfl, rfl⟩ | ⟨rfl, rfl⟩ | ⟨rfl, rfl⟩ | ⟨rfl, rfl⟩ | ⟨rfl, rfl⟩ |
      ⟨rfl, rfl⟩ | ⟨rfl, rfl⟩ | ⟨rfl, rfl⟩ | ⟨rfl, rfl⟩ | ⟨rfl, rfl⟩ | ⟨n, hn, rfl, rfl⟩ | ⟨j, hj, rfl, rfl⟩ |
      ⟨j, hj, rfl, rfl⟩ | ⟨j, hj, rfl, rfl⟩ | ⟨j, hj, rfl, rfl⟩ | ⟨k, rfl, rfl⟩ | ⟨r, c, rfl, hv⟩
    iterate 12 exact rfl
    · rw [readValue, readReg_of_unmapped (.inr hn)]
    · rw [readValue, readBuffer, bufRead_of_lt _ hj]
    · rw [readValue, readBuffer, bufRead_of_le _ hj]
      rfl
    · rw [readValue, readBuffer, bufRead_of_lt _ hj]
    · rw [readValue, readBuffer, bufRead_of_le _ hj]
      rfl
    · rfl
    · rw [readValue, setWidth_pixel_eq hv]
  case again =>
    obtain ⟨v, hv⟩ : ∃ v, readValue s a = some v := by
      rcases ha with ⟨n, rfl⟩ | ⟨b, j, rfl⟩ | ⟨k, rfl⟩ | ⟨r, c, rfl⟩ <;> exact ⟨_, rfl⟩
    obtain rfl := Host.Outcome.next.inj ((step_read hscript hv).symm.trans ht)
    exact ⟨v, rfl, step_read (State.setScript_script _ _) (by simpa using hv)⟩

end Sys2Proof.Proofs

/-! ### The host script of R156, one GETBYTE for each byte -/

namespace Sys2Proof.Machine

/-! #### GETBYTE, in each of its three cases -/

/-- What GETBYTE leaves: with an error latched nothing; past the last pixel LDPIX's error; else the hidden byte in BYTE,
the pixel in PIX and IDX one further (R79, R134, R188). -/
def getByteTurn (s : State) : State :=
  whenClear (fun s =>
    if s.npix ≤ s.idx.toNat then s.setLatch 4#3 s.idx
    else ((s.setPix (pixelAt s.cols s.car s.idx.toNat)).setByte (hiddenByte s.cols s.car s.idx.toNat)).setIdx
      (s.idx + 1#32)) s

theorem getByteTurn_latched {s : State} (hs : s.err ≠ 0#3) : getByteTurn s = s :=
  whenClear_of_latched hs

theorem getByteTurn_out_of_range {s : State} (hs : s.err = 0#3) (hr : s.npix ≤ s.idx.toNat) :
    getByteTurn s = s.setLatch 4#3 s.idx :=
  (whenClear_of_clear hs).trans (if_pos hr)

theorem getByteTurn_in_range {s : State} (hs : s.err = 0#3) (hr : s.idx.toNat < s.npix) :
    getByteTurn s = ((s.setPix (pixelAt s.cols s.car s.idx.toNat)).setByte
      (hiddenByte s.cols s.car s.idx.toNat)).setIdx (s.idx + 1#32) :=
  (whenClear_of_clear hs).trans (if_neg (Nat.not_le.mpr hr))

theorem run_getByte (s : State) (rest : List HostAction) :
    core.run 3 (s.setScript (getByte ++ rest)) = .next ((getByteTurn s).setScript rest) := by
  by_cases hs : s.err = 0#3
  · rcases Nat.lt_or_ge s.idx.toNat s.npix with hr | hr
    · rw [run_getByte_in_range rest hs hr, getByteTurn_in_range hs hr, hiddenByte]
    · rw [run_getByte_out_of_range rest hs hr, getByteTurn_out_of_range hs hr]
  · rw [run_getByte_latched rest hs, getByteTurn_latched hs]

/-- The state with HDR, PAY and the readings replaced. -/
def collect (h : Vector Byte 30) (m : Memory 8) (r : List Word) (s : State) : State :=
  ((s.setHdr h).setPay m).setReadBack r

/-- GETBYTE neither reads nor writes HDR, PAY and the readings. -/
theorem getByteTurn_collect (h : Vector Byte 30) (m : Memory 8) (r : List Word) (s : State) :
    getByteTurn (collect h m r s) = collect h m r (getByteTurn s) := by
  by_cases hs : s.err = 0#3
  · rcases Nat.lt_or_ge s.idx.toNat s.npix with hr | hr
    · rw [getByteTurn_in_range hs hr, getByteTurn_in_range (s := collect h m r s) hs hr]
      rfl
    · rw [getByteTurn_out_of_range hs hr, getByteTurn_out_of_range (s := collect h m r s) hs hr]
      rfl
  · rw [getByteTurn_latched hs, getByteTurn_latched (s := collect h m r s) hs]

/-! #### GETBYTE again and again -/

@[simp] theorem State.setPix_npix (s : State) (v : Pixel) : (s.setPix v).npix = s.npix := rfl
@[simp] theorem State.setByte_npix (s : State) (v : Byte) : (s.setByte v).npix = s.npix := rfl
@[simp] theorem State.setReadBack_npix (s : State) (v : List Word) : (s.setReadBack v).npix = s.npix := rfl

section

variable {s : State} {i n : Nat}

theorem iterate_getByteTurn_latched (hs : s.err ≠ 0#3) (n : Nat) : getByteTurn^[n] s = s :=
  Function.iterate_fixed (getByteTurn_latched hs) n

theorem toNat_ofNat_of_le_npix (hi : i ≤ s.npix) : (BitVec.ofNat 32 i).toNat = i :=
  Nat.mod_eq_of_lt (Nat.lt_of_le_of_lt hi (npix_lt s))

section

variable (hs : s.err = 0#3) (hidx : s.idx = BitVec.ofNat 32 i)

include hs hidx

/-- Inside the carrier the last turn counts. -/
theorem iterate_getByteTurn_in_range (hn : i + n < s.npix) : getByteTurn^[n + 1] s =
    ((s.setPix (pixelAt s.cols s.car (i + n))).setByte (hiddenByte s.cols s.car (i + n))).setIdx
      (BitVec.ofNat 32 (i + n + 1)) := by
  induction n with
  | zero =>
    have hi : s.idx.toNat = i := by rw [hidx, toNat_ofNat_of_le_npix (s := s) (by omega)]
    rw [Function.iterate_one, getByteTurn_in_range hs (by omega), hi, hidx, Nat.add_zero, BitVec.ofNat_add]
  | succ n ih =>
    have hi : (BitVec.ofNat 32 (i + n + 1)).toNat = i + n + 1 := toNat_ofNat_of_le_npix (s := s) (by omega)
    rw [Function.iterate_succ_apply', ih (by omega),
      getByteTurn_in_range (by exact hs) (by simpa [hi, ← Nat.add_assoc] using hn), State.setIdx_idx, hi, ← Nat.add_assoc, BitVec.ofNat_add (i + n + 1)]
    apply State.ext <;> simp

theorem iterate_getByteTurn_keeps (hn : i + n ≤ s.npix) : (getByteTurn^[n] s).err = 0#3 ∧
    (getByteTurn^[n] s).idx = BitVec.ofNat 32 (i + n) ∧ (getByteTurn^[n] s).npix = s.npix := by
  cases n with
  | zero => exact ⟨hs, hidx, rfl⟩
  | succ n =>
    rw [iterate_getByteTurn_in_range hs hidx (by omega)]
    exact ⟨hs, rfl, rfl⟩

/-- Past the carrier's end the turn after the last pixel latches the error and the later ones do nothing. -/
theorem iterate_getByteTurn_out_of_range (hi : i ≤ s.npix) (hn : s.npix < i + n) :
    getByteTurn^[n] s = (getByteTurn^[s.npix - i] s).setLatch 4#3 (BitVec.ofNat 32 s.npix) := by
  obtain ⟨k, rfl⟩ : ∃ k, n = k + 1 + (s.npix - i) := ⟨i + n - s.npix - 1, by omega⟩
  obtain ⟨herr, hidx', hnpix⟩ := iterate_getByteTurn_keeps hs hidx (n := s.npix - i) (by omega)
  rw [Nat.add_sub_cancel' hi] at hidx'
  have hr : (BitVec.ofNat 32 s.npix).toNat = s.npix := toNat_ofNat_of_le_npix le_rfl
  rw [Function.iterate_add_apply, Function.iterate_succ_apply,
    getByteTurn_out_of_range herr (by rw [hnpix, hidx', hr]), iterate_getByteTurn_latched (by simp), hidx']

/-- From a state that has just got the pixel before IDX, any number of turns inside the carrier. -/
theorem iterate_getByteTurn_go_on (hpix : s.pix = pixelAt s.cols s.car (i - 1))
    (hbyte : s.byte = hiddenByte s.cols s.car (i - 1)) (hn : i + n ≤ s.npix) : getByteTurn^[n] s =
    ((s.setPix (pixelAt s.cols s.car (i + n - 1))).setByte (hiddenByte s.cols s.car (i + n - 1))).setIdx
      (BitVec.ofNat 32 (i + n)) := by
  cases n with
  | zero => rw [Nat.add_zero, ← hpix, ← hbyte, ← hidx]; rfl
  | succ n => exact iterate_getByteTurn_in_range hs hidx (by omega)

end

/-- The byte that turn `k` leaves in BYTE. -/
def gotByte (s : State) (k : Nat) : Byte := (getByteTurn^[k + 1] s).byte

theorem gotByte_latched (hs : s.err ≠ 0#3) (k : Nat) : gotByte s k = s.byte := by
  rw [gotByte, iterate_getByteTurn_latched hs]

theorem gotByte_in_range (hs : s.err = 0#3) (hidx : s.idx = BitVec.ofNat 32 i) {k : Nat} (hk : i + k < s.npix) :
    gotByte s k = hiddenByte s.cols s.car (i + k) := by
  rw [gotByte, iterate_getByteTurn_in_range hs hidx hk]
  rfl

/-- Past the carrier's end BYTE holds what it held there (R188). -/
theorem gotByte_out_of_range (hs : s.err = 0#3) (hidx : s.idx = BitVec.ofNat 32 i) (hi : i ≤ s.npix) {k : Nat}
    (hk : s.npix ≤ i + k) : gotByte s k = (getByteTurn^[s.npix - i] s).byte := by
  rw [gotByte, iterate_getByteTurn_out_of_range hs hidx hi (by omega)]
  rfl

end

/-! #### The loops of the script -/

/-- Where the script puts the bytes: the header into HDR, the payload into PAY. -/
inductive Sink where
  | hdr
  | pay

/-- The line that puts the byte just read at index `k`. -/
def Sink.line : Sink → Nat → HostAction
  | .hdr, k => .wrbRead .hdr k
  | .pay, k => .wrpRead (BitVec.ofNat 32 k)

/-- What that line does with a byte. -/
def Sink.store : Sink → Nat → Byte → State → State
  | .hdr, k, b, s => s.setHdr (bufWrite s.hdr k b)
  | .pay, k, b, s => s.setPay (payWrite s.pay (BitVec.ofNat 32 k) b)

/-- The lines of the script for byte `k`: `GETBYTE ; RD BYTE -> b`, then the line that puts `b` away. -/
def getByteLines (σ : Sink) (k : Nat) : List HostAction := getByte ++ [.rd 8, σ.line k]

/-- The lines of the script for the first `n` bytes. -/
def getLoop (σ : Sink) (n : Nat) : List HostAction := (List.range n).flatMap (getByteLines σ)

theorem getLoop_succ (σ : Sink) (n : Nat) : getLoop σ (n + 1) = getLoop σ n ++ getByteLines σ n := by
  rw [getLoop, List.range_succ, List.flatMap_append, List.flatMap_singleton, getLoop]

theorem getLoop_length (σ : Sink) (n : Nat) : (getLoop σ n).length = 5 * n := by
  induction n with
  | zero => rfl
  | succ n ih => rw [getLoop_succ, List.length_append, ih]; rfl

/-- What the lines for byte `k` leave. -/
def getTurn (σ : Sink) (k : Nat) (s : State) : State :=
  σ.store k (getByteTurn s).byte ((getByteTurn s).seen ((getByteTurn s).byte.setWidth 32))

theorem run_getByteLines (σ : Sink) (k : Nat) (s : State) (rest : List HostAction) :
    core.run 5 (s.setScript (getByteLines σ k ++ rest)) = .next ((getTurn σ k s).setScript rest) := by
  rw [getByteLines, List.append_assoc]
  refine (run_add 3 2 (run_getByte s _)).trans ?_
  generalize hq : getByteTurn s = q
  refine (run_cons 1 (t := (q.seen (q.byte.setWidth 32)).setScript (σ.line k :: rest)) rfl).trans ?_
  refine run_cons 0 ?_
  rw [getTurn, hq]
  cases σ with
  | hdr => exact doAction_wrbRead rfl .hdr k
  | pay => exact doAction_wrpRead rfl _

/-- What the first `n` turns leave. -/
def getTurns (σ : Sink) (s : State) : Nat → State
  | 0 => s
  | n + 1 => getTurn σ n (getTurns σ s n)

theorem run_getLoop (σ : Sink) (s : State) (n : Nat) (rest : List HostAction) :
    core.run (5 * n) (s.setScript (getLoop σ n ++ rest)) = .next ((getTurns σ s n).setScript rest) := by
  induction n generalizing rest with
  | zero => rfl
  | succ n ih =>
    rw [getLoop_succ, List.append_assoc]
    exact (run_add (5 * n) 5 (ih _)).trans (run_getByteLines σ n _ rest)

/-- HDR with the bytes `f 0` to `f (n - 1)` written in turn. -/
def hdrTurns (f : Nat → Byte) (h : Vector Byte 30) : Nat → Vector Byte 30
  | 0 => h
  | n + 1 => bufWrite (hdrTurns f h n) n (f n)

/-- PAY with the bytes `f 0` to `f (n - 1)` written in turn. -/
def payTurns (f : Nat → Byte) (m : Memory 8) : Nat → Memory 8
  | 0 => m
  | n + 1 => payWrite (payTurns f m n) (BitVec.ofNat 32 n) (f n)

/-- What the sink makes of HDR. -/
def Sink.hdrAfter : Sink → (Nat → Byte) → Vector Byte 30 → Nat → Vector Byte 30
  | .hdr, f, h, n => hdrTurns f h n
  | .pay, _, h, _ => h

/-- What the sink makes of PAY. -/
def Sink.payAfter : Sink → (Nat → Byte) → Memory 8 → Nat → Memory 8
  | .hdr, _, m, _ => m
  | .pay, f, m, n => payTurns f m n

/-- What `RD BYTE` has returned after `n` turns, newest first. -/
def readings (f : Nat → Byte) (n : Nat) : List Word := ((List.range n).map fun k => (f k).setWidth 32).reverse

theorem readings_succ (f : Nat → Byte) (n : Nat) : readings f (n + 1) = (f n).setWidth 32 :: readings f n := by
  rw [readings, List.range_succ, List.map_append, List.reverse_append]
  rfl

/-- The turns are so many GETBYTEs, with each byte they leave recorded and put away. -/
theorem getTurns_eq (σ : Sink) (s : State) (n : Nat) : getTurns σ s n =
    collect (σ.hdrAfter (gotByte s) s.hdr n) (σ.payAfter (gotByte s) s.pay n) (readings (gotByte s) n ++ s.readBack)
      (getByteTurn^[n] s) := by
  induction n with
  | zero => cases σ <;> rfl
  | succ n ih =>
    rw [getTurns, ih, getTurn, getByteTurn_collect, ← Function.iterate_succ_apply' getByteTurn, readings_succ]
    cases σ <;> rfl

theorem bufRead_hdrTurns (f : Nat → Byte) (h : Vector Byte 30) {n j : Nat} (hj : j < 30) :
    bufRead (hdrTurns f h n) j = if j < n then f j else bufRead h j := by
  induction n with
  | zero => rfl
  | succ n ih =>
    rw [hdrTurns, bufRead_bufWrite, ih]
    by_cases hjn : j = n
    · subst hjn
      rw [if_pos ⟨rfl, hj⟩, if_pos (by omega)]
    · rw [if_neg fun hand => hjn hand.1]
      exact if_congr (by omega) rfl rfl

theorem payRead_payTurns (f : Nat → Byte) (m : Memory 8) {n : Nat} (hn : n ≤ 4294967296) (k : Word) :
    payRead (payTurns f m n) k = if k.toNat < n then f k.toNat else payRead m k := by
  induction n with
  | zero => rfl
  | succ n ih =>
    have hword : (BitVec.ofNat 32 n).toNat = n := Nat.mod_eq_of_lt (by omega)
    rw [payTurns, payRead_payWrite, ih (by omega)]
    by_cases hkn : k.toNat = n
    · rw [if_pos (BitVec.eq_of_toNat_eq (by rw [hkn, hword])), if_pos (by omega), hkn]
    · rw [if_neg (by rintro rfl; exact hkn hword)]
      exact if_congr (by omega) rfl rfl

theorem payTurns_congr {f g : Nat → Byte} (m : Memory 8) {n : Nat} (h : ∀ k < n, f k = g k) :
    payTurns f m n = payTurns g m n := by
  induction n with
  | zero => rfl
  | succ n ih => rw [payTurns, ih fun k hk => h k (by omega), h n (by omega), payTurns]

theorem readings_congr {f g : Nat → Byte} {n : Nat} (h : ∀ k < n, f k = g k) : readings f n = readings g n := by
  rw [readings, List.map_congr_left fun k hk => by rw [h k (List.mem_range.mp hk)], readings]

theorem extractTurns_eq_payTurns (cols : Dim) (car : Memory 24) (pay : Memory 8) (n : Nat) :
    extractTurns cols car pay n = payTurns (fun k => hiddenByte cols car (30 + k)) pay n := by
  induction n with
  | zero => rfl
  | succ n ih => rw [extractTurns, ih, payTurns]

/-! #### The two parts of the script -/

theorem run_extractHeadByHand {s t : State} (hs : s.err = 0#3)
    (hparse : exec .parse (getTurns .hdr (s.setIdx 0#32) 30) = .next t) :
    core.run extractHeadByHand.length (s.setScript extractHeadByHand) = .next ((t.seen t.size).setScript []) := by
  have hscript : extractHeadByHand = command .irst :: (getLoop .hdr 30 ++ [command .parse, .rd 5]) := rfl
  have hlength : extractHeadByHand.length = 5 * 30 + 2 + 1 := by
    rw [hscript, List.length_cons, List.length_append, getLoop_length]
    rfl
  rw [hlength, hscript]
  refine (run_exec _ (exec_irst_of_clear hs) _).trans ?_
  refine (run_add (5 * 30) 2 (run_getLoop .hdr _ 30 _)).trans ?_
  exact (run_exec 1 hparse _).trans (run_cons 0 rfl)

theorem run_extractTailByHand (s : State) (l : List HostAction) (v : Word) :
    core.run (extractTailByHand v).length ((s.setScript l).setScript (extractTailByHand v)) =
      .next (((getTurns .pay s v.toNat).setPlen v).setScript []) := by
  have hscript : extractTailByHand v = getLoop .pay v.toNat ++ [.wr 6 v] := rfl
  have hlength : (extractTailByHand v).length = 5 * v.toNat + 1 := by
    rw [hscript, List.length_append, getLoop_length]
    rfl
  rw [hlength, hscript, State.setScript_setScript]
  exact (run_add (5 * v.toNat) 1 (run_getLoop .pay s v.toNat _)).trans (run_cons 0 rfl)

/-! #### What the loops leave, case by case -/

/-- The payload loop with an error latched: every byte put away is the one in BYTE (R188). -/
theorem getTurns_pay_latched {s : State} (hs : s.err ≠ 0#3) (n : Nat) : getTurns .pay s n =
    (s.setPay (payTurns (fun _ => s.byte) s.pay n)).setReadBack (readings (fun _ => s.byte) n ++ s.readBack) := by
  rw [getTurns_eq, iterate_getByteTurn_latched hs, funext (gotByte_latched hs)]
  rfl

section

variable {s : State} (hs : s.err = 0#3) (hidx : s.idx = 30#32) (hpix : s.pix = pixelAt s.cols s.car 29)
  (hbyte : s.byte = hiddenByte s.cols s.car 29)

include hs hidx hpix hbyte

/-- The payload loop on a carrier with room for the payload. -/
theorem getTurns_pay_of_fits {n : Nat} (hfits : 30 + n ≤ s.npix) : getTurns .pay s n =
    ((((s.setPay (extractTurns s.cols s.car s.pay n)).setPix (pixelAt s.cols s.car (29 + n))).setByte
      (hiddenByte s.cols s.car (29 + n))).setIdx (BitVec.ofNat 32 (30 + n))).setReadBack
        (readings (fun k => hiddenByte s.cols s.car (30 + k)) n ++ s.readBack) := by
  have hgot : ∀ k < n, gotByte s k = hiddenByte s.cols s.car (30 + k) :=
    fun k hk => gotByte_in_range hs hidx (by omega)
  rw [getTurns_eq, iterate_getByteTurn_go_on hs hidx hpix hbyte hfits, readings_congr hgot, Sink.payAfter,
    payTurns_congr _ hgot, ← extractTurns_eq_payTurns, show 30 + n - 1 = 29 + n by omega]
  rfl

/-- The payload loop on a carrier too short for the payload. -/
theorem getTurns_pay_of_truncated {n : Nat} (hroom : 30 ≤ s.npix) (hshort : s.npix < 30 + n) : getTurns .pay s n =
    (((((s.setPay (payTurns (gotByte s) s.pay n)).setPix (pixelAt s.cols s.car (s.npix - 1))).setByte
      (hiddenByte s.cols s.car (s.npix - 1))).setIdx (BitVec.ofNat 32 s.npix)).setReadBack
        (readings (gotByte s) n ++ s.readBack)).setLatch 4#3 (BitVec.ofNat 32 s.npix) := by
  rw [getTurns_eq, iterate_getByteTurn_out_of_range hs hidx hroom hshort,
    iterate_getByteTurn_go_on hs hidx hpix hbyte (by omega), Nat.add_sub_cancel' hroom]
  rfl

theorem gotByte_of_truncated (hroom : 30 ≤ s.npix) (k : Nat) : gotByte s k =
    if 30 + k < s.npix then hiddenByte s.cols s.car (30 + k) else hiddenByte s.cols s.car (s.npix - 1) := by
  split
  · next hk => exact gotByte_in_range hs hidx hk
  · next hk =>
    rw [gotByte_out_of_range hs hidx hroom (by omega), iterate_getByteTurn_go_on hs hidx hpix hbyte (by omega),
      Nat.add_sub_cancel' hroom]
    rfl

end

/-- The state of the script after the header of a carrier that has one. -/
def headerGot (s : State) (h : Vector Byte 30) : State :=
  ((((s.setHdr h).setIdx 30#32).setPix (pixelAt s.cols s.car 29)).setByte (hiddenByte s.cols s.car 29)).setReadBack
    (readings (hiddenByte s.cols s.car) 30 ++ s.readBack)

/-- The header loop on a carrier with room for a header. -/
theorem getTurns_hdr_of_room {s : State} (hs : s.err = 0#3) (hroom : 30 ≤ s.npix) {h : Vector Byte 30}
    (hh : ∀ j < 30, bufRead h j = hiddenByte s.cols s.car j) :
    getTurns .hdr (s.setIdx 0#32) 30 = headerGot s h := by
  have hgot : ∀ k < 30, gotByte (s.setIdx 0#32) k = hiddenByte s.cols s.car k := fun k hk => by
    rw [gotByte_in_range (s := s.setIdx 0#32) (i := 0) hs rfl (by rw [State.setIdx_npix]; omega), Nat.zero_add]
    rfl
  have hhdr : hdrTurns (gotByte (s.setIdx 0#32)) s.hdr 30 = h := buffer_ext fun j hj => by
    rw [bufRead_hdrTurns _ _ hj, if_pos hj, hgot j hj, hh j hj]
  rw [getTurns_eq, iterate_getByteTurn_in_range (s := s.setIdx 0#32) (i := 0) (n := 29) hs rfl
    (by rw [State.setIdx_npix]; omega), readings_congr hgot, Sink.hdrAfter, State.setIdx_hdr, hhdr]
  rfl

/-- All the turns the carrier has pixels for. -/
theorem iterate_getByteTurn_npix {s : State} (hs : s.err = 0#3) : ∃ (b : Byte) (p : Pixel),
    getByteTurn^[s.npix] (s.setIdx 0#32) = ((s.setByte b).setPix p).setIdx (BitVec.ofNat 32 s.npix) ∧
      (s.npix = 0 → b = s.byte ∧ p = s.pix) ∧
      (0 < s.npix → b = hiddenByte s.cols s.car (s.npix - 1) ∧ p = pixelAt s.cols s.car (s.npix - 1)) := by
  cases hn : s.npix with
  | zero => exact ⟨s.byte, s.pix, rfl, fun _ => ⟨rfl, rfl⟩, fun h => absurd h (Nat.lt_irrefl 0)⟩
  | succ n =>
    refine ⟨_, _, ?_, fun h => absurd h (Nat.succ_ne_zero n), fun _ => ⟨rfl, rfl⟩⟩
    rw [iterate_getByteTurn_in_range (s := s.setIdx 0#32) (i := 0) hs rfl (by rw [State.setIdx_npix]; omega),
      Nat.zero_add]
    rfl

/-- The header loop on a carrier with no room for a header: what is there is put away, then the last byte again and
again. -/
theorem getTurns_hdr_of_short {s : State} (hs : s.err = 0#3) (hshort : s.npix < 30) :
    ∃ (h : Vector Byte 30) (b : Byte) (p : Pixel) (r : List Word),
      getTurns .hdr (s.setIdx 0#32) 30 = (((((s.setHdr h).setIdx (BitVec.ofNat 32 s.npix)).setByte b).setPix
        p).setReadBack r).setLatch 4#3 (BitVec.ofNat 32 s.npix) ∧
      (s.npix = 0 → b = s.byte ∧ p = s.pix) ∧
      (0 < s.npix → b = hiddenByte s.cols s.car (s.npix - 1) ∧ p = pixelAt s.cols s.car (s.npix - 1)) ∧
      ∀ j < 30, bufRead h j = if j < s.npix then hiddenByte s.cols s.car j else b := by
  obtain ⟨b, p, hlast, hnone, hsome⟩ := iterate_getByteTurn_npix hs
  refine ⟨hdrTurns (gotByte (s.setIdx 0#32)) s.hdr 30, b, p, readings (gotByte (s.setIdx 0#32)) 30 ++ s.readBack, ?_,
    hnone, hsome, fun j hj => ?_⟩
  · rw [getTurns_eq, iterate_getByteTurn_out_of_range (s := s.setIdx 0#32) (i := 0) hs rfl (Nat.zero_le _)
      (by rw [State.setIdx_npix]; omega), State.setIdx_npix, Nat.sub_zero, hlast]
    generalize gotByte (s.setIdx 0#32) = f
    apply State.ext <;> simp [collect, Sink.hdrAfter, Sink.payAfter]
  · rw [bufRead_hdrTurns _ _ hj, if_pos hj]
    split
    · next hjn =>
      rw [gotByte_in_range (s := s.setIdx 0#32) (i := 0) hs rfl (by rw [State.setIdx_npix]; omega), Nat.zero_add]
      rfl
    · next hjn =>
      rw [gotByte_out_of_range (s := s.setIdx 0#32) (i := 0) hs rfl (Nat.zero_le _)
        (by rw [State.setIdx_npix]; omega), State.setIdx_npix, Nat.sub_zero, hlast]
      rfl

end Sys2Proof.Machine

/-! #### The whole script, case by case -/

namespace Sys2Proof.Machine

/-- The script of R156, run from `s`, reads `v` as the size and leaves `w`. -/
def ExtractsByHand (s : State) (v : Word) (w : State) : Prop :=
  ∃ u, core.run extractHeadByHand.length (s.setScript extractHeadByHand) = .next u ∧ u.readBack.head? = some v ∧
    core.run (extractTailByHand v).length (u.setScript (extractTailByHand v)) = .next w

/-- The script in its three parts: the header loop leaves `g`, PARSE then `t`, and the payload loop `w`. -/
theorem extractsByHand_of_parse {s g t w : State} {v : Word} (hs : s.err = 0#3)
    (hturns : getTurns .hdr (s.setIdx 0#32) 30 = g) (hparse : exec .parse g = .next t) (hv : t.size = v)
    (hw : w = ((getTurns .pay (t.seen v) v.toNat).setPlen v).setScript []) : ExtractsByHand s v w := by
  subst hturns hv hw
  exact ⟨_, run_extractHeadByHand hs hparse, rfl, run_extractTailByHand _ [] _⟩

/-- The state at the beginning of the payload loop, with `v` the size that `RD SIZE` has returned. -/
def payloadStart (s : State) (h : Vector Byte 30) (v : Word) (name : List Byte) : State :=
  (deliverHeader v.toNat name (headerGot s h)).seen v

section

variable (s : State) (h : Vector Byte 30) (v : Word) (name : List Byte)

@[simp] theorem payloadStart_err : (payloadStart s h v name).err = s.err := by
  simp [payloadStart, headerGot, State.seen]
@[simp] theorem payloadStart_idx : (payloadStart s h v name).idx = 30#32 := by
  simp [payloadStart, headerGot, State.seen]
@[simp] theorem payloadStart_cols : (payloadStart s h v name).cols = s.cols := by
  simp [payloadStart, headerGot, State.seen]
@[simp] theorem payloadStart_car : (payloadStart s h v name).car = s.car := by
  simp [payloadStart, headerGot, State.seen]
@[simp] theorem payloadStart_npix : (payloadStart s h v name).npix = s.npix := by
  simp [payloadStart, headerGot, State.seen]
@[simp] theorem payloadStart_pix : (payloadStart s h v name).pix = pixelAt s.cols s.car 29 := by
  simp [payloadStart, headerGot, State.seen]
@[simp] theorem payloadStart_byte : (payloadStart s h v name).byte = hiddenByte s.cols s.car 29 := by
  simp [payloadStart, headerGot, State.seen]

end

section

variable {s : State} (hs : s.err = 0#3)

include hs

/-- No room for a header: the error is latched before PARSE, and the byte still in BYTE is put away for the rest. -/
theorem extractsByHand_of_short (hshort : s.npix < 30) :
    ∃ (h : Vector Byte 30) (b : Byte) (p : Pixel) (m : Memory 8) (r : List Word),
      ExtractsByHand s s.size (((((((((s.setScript []).setReadBack r).setHdr h).setIdx
        (BitVec.ofNat 32 s.npix)).setByte b).setPix p).setPay m).setPlen s.size).setLatch 4#3
          (BitVec.ofNat 32 s.npix)) ∧
      (s.npix = 0 → b = s.byte ∧ p = s.pix) ∧
      (0 < s.npix → b = hiddenByte s.cols s.car (s.npix - 1) ∧ p = pixelAt s.cols s.car (s.npix - 1)) ∧
      (∀ j < 30, bufRead h j = if j < s.npix then hiddenByte s.cols s.car j else b) ∧
      ∀ k : Word, payRead m k = if k.toNat < s.size.toNat then b else payRead s.pay k := by
  obtain ⟨h, b, p, r, hturns, hnone, hsome, hhdr⟩ := getTurns_hdr_of_short hs hshort
  refine ⟨h, b, p, payTurns (fun _ => b) s.pay s.size.toNat, readings (fun _ => b) s.size.toNat ++ s.size :: r,
    extractsByHand_of_parse hs hturns (exec_of_latched (by simp) (by decide)) (by simp) ?_, hnone, hsome, hhdr,
    payRead_payTurns _ _ (Nat.le_of_lt s.size.isLt)⟩
  rw [getTurns_pay_latched (by simp [State.seen])]
  apply State.ext <;> simp [State.seen]

section

variable (hroom : 30 ≤ s.npix) {h : Vector Byte 30} (hh : ∀ j < 30, bufRead h j = hiddenByte s.cols s.car j)

include hroom hh

/-- A header that does not parse: PARSE latches the error, and the last header byte is put away as the payload. -/
theorem extractsByHand_of_error {j : Nat} (hp : parseHdr (bufRead h) = .error j) : ∃ (m : Memory 8) (r : List Word),
    ExtractsByHand s s.size (((((((((s.setHdr h).setIdx 30#32).setLatch 3#3 (BitVec.ofNat 32 j)).setScript
      []).setReadBack r).setByte (hiddenByte s.cols s.car 29)).setPix (pixelAt s.cols s.car 29)).setPay m).setPlen
        s.size) ∧
    ∀ k : Word, payRead m k = if k.toNat < s.size.toNat then hiddenByte s.cols s.car 29 else payRead s.pay k := by
  have hparse := exec_parse_of_error (s := headerGot s h) (by simpa [headerGot] using hs)
    (by simpa [headerGot] using hp)
  refine ⟨payTurns (fun _ => hiddenByte s.cols s.car 29) s.pay s.size.toNat,
    readings (fun _ => hiddenByte s.cols s.car 29) s.size.toNat ++ s.size ::
      (readings (hiddenByte s.cols s.car) 30 ++ s.readBack),
    extractsByHand_of_parse hs (getTurns_hdr_of_room hs hroom hh) hparse (by simp [headerGot]) ?_,
    payRead_payTurns _ _ (Nat.le_of_lt s.size.isLt)⟩
  rw [getTurns_pay_latched (by simp [State.seen])]
  apply State.ext <;> simp [State.seen, headerGot]

section

variable {v : Word} {name : List Byte} (hp : parseHdr (bufRead h) = .ok (v.toNat, name))

include hp

theorem extractsByHand_of_payload {w : State}
    (hw : w = ((getTurns .pay (payloadStart s h v name) v.toNat).setPlen v).setScript []) : ExtractsByHand s v w := by
  have hparse := exec_parse_of_ok (s := headerGot s h) (by simpa [headerGot] using hs)
    (by simpa [headerGot] using hp)
  exact extractsByHand_of_parse hs (getTurns_hdr_of_room hs hroom hh) hparse (by simp) hw

/-- No room for the payload: what is there is put away, then the last byte again and again. -/
theorem extractsByHand_of_truncated (hshort : s.npix < 30 + v.toNat) : ∃ (m : Memory 8) (r : List Word),
    ExtractsByHand s v ((((((((((deliverHeader v.toNat name ((s.setHdr h).setIdx 30#32)).setLatch 4#3
      (BitVec.ofNat 32 (30 + v.toNat))).setScript []).setReadBack r).setIdx (BitVec.ofNat 32 s.npix)).setByte
        (hiddenByte s.cols s.car (s.npix - 1))).setPix (pixelAt s.cols s.car (s.npix - 1))).setPay m).setPlen
          v).setLatch 4#3 (BitVec.ofNat 32 s.npix)) ∧
    ∀ k : Word, payRead m k =
      if k.toNat < v.toNat then
        if 30 + k.toNat < s.npix then hiddenByte s.cols s.car (30 + k.toNat)
        else hiddenByte s.cols s.car (s.npix - 1)
      else payRead s.pay k := by
  have hgot := gotByte_of_truncated (s := payloadStart s h v name) (by simpa using hs) (by simp) (by simp) (by simp)
    (by simpa using hroom)
  have hturns := getTurns_pay_of_truncated (s := payloadStart s h v name) (by simpa using hs) (by simp) (by simp)
    (by simp) (by simpa using hroom) (by simpa using hshort)
  simp only [payloadStart_npix, payloadStart_cols, payloadStart_car] at hgot hturns
  generalize gotByte (payloadStart s h v name) = f at hgot hturns
  refine ⟨payTurns f s.pay v.toNat, readings f v.toNat ++ v :: (readings (hiddenByte s.cols s.car) 30 ++ s.readBack),
    extractsByHand_of_payload hs hroom hh hp ?_, fun k => ?_⟩
  · rw [hturns]
    apply State.ext <;> simp [payloadStart, State.seen, headerGot]
  · rw [payRead_payTurns _ _ (Nat.le_of_lt v.isLt), hgot]

/-- Room for the payload: the script leaves what EXTRACT leaves, and the last byte and pixel. -/
theorem extractsByHand_of_fits (hfits : 30 + v.toNat ≤ s.npix) :
    ExtractsByHand s v ((((((((deliverHeader v.toNat name (s.setHdr h)).setPay
      (extractTurns s.cols s.car s.pay v.toNat)).setPlen v).setIdx (BitVec.ofNat 32 (30 + v.toNat))).setScript
        []).setReadBack (readings (fun k => hiddenByte s.cols s.car (30 + k)) v.toNat ++ v ::
          (readings (hiddenByte s.cols s.car) 30 ++ s.readBack))).setByte
            (hiddenByte s.cols s.car (29 + v.toNat))).setPix (pixelAt s.cols s.car (29 + v.toNat))) := by
  refine extractsByHand_of_payload hs hroom hh hp ?_
  rw [getTurns_pay_of_fits (by simpa using hs) (by simp) (by simp) (by simp) (by simpa using hfits)]
  apply State.ext <;> simp [payloadStart, State.seen, headerGot]

end

end

end

end Sys2Proof.Machine

/-! ### The statement about EXTRACT and its script -/

namespace Sys2Proof.Proofs

open Sys2Proof Sys2Proof.Machine

/-- Settles O41, one outcome of EXTRACT after the other: no room for a header, a header that does not parse, no room
for the payload, and none of these. -/
theorem extractEqualsTheByteLoop : Obligations.ExtractEqualsTheByteLoop := by
  intro s t hs ht
  rcases Nat.lt_or_ge s.npix 30 with hshort | hroom
  · obtain rfl := Host.Outcome.next.inj ((exec_extract_of_short hs hshort).symm.trans ht)
    obtain ⟨h, b, p, m, r, ⟨u, hhead, hsize, htail⟩, hnone, hsome, hhdr, hpay⟩ := extractsByHand_of_short hs hshort
    exact ⟨u, _, b, p, m, r, hhead, hsize, htail, fun herr => absurd herr (by simp),
      fun _ => ⟨h, rfl, hnone, hsome, hhdr, hpay⟩, fun hroom => absurd hshort (Nat.not_lt.mpr hroom),
      fun herr => absurd herr (by simp)⟩
  obtain ⟨h, hh⟩ : ∃ h : Vector Byte 30, ∀ j < 30, bufRead h j = hiddenByte s.cols s.car j :=
    ⟨_, fun _ hj => bufRead_hdrOf _ hj⟩
  cases hp : parseHdr (bufRead h) with
  | error j =>
    obtain rfl := Host.Outcome.next.inj ((exec_extract_of_error hs hh hroom hp).symm.trans ht)
    obtain ⟨m, r, ⟨u, hhead, hsize, htail⟩, hpay⟩ := extractsByHand_of_error hs hroom hh hp
    exact ⟨u, _, _, _, m, r, hhead, hsize, htail, fun herr => absurd herr (by simp),
      fun hshort => absurd hroom (Nat.not_le.mpr hshort), fun _ herr => absurd herr (by simp),
      fun _ => ⟨rfl, rfl, rfl, hpay⟩⟩
  | ok r =>
    obtain ⟨v, hv⟩ : ∃ v : Word, v.toNat = r.1 :=
      ⟨BitVec.ofNat 32 r.1, Nat.mod_eq_of_lt (Nat.lt_of_le_of_lt (parseHdr_ok_le hp).1 (by decide))⟩
    obtain ⟨n, name⟩ := r
    obtain rfl := hv
    have hword : BitVec.ofNat 32 v.toNat = v := by rw [BitVec.ofNat_toNat, BitVec.setWidth_eq]
    rcases Nat.lt_or_ge s.npix (30 + v.toNat) with hshort | hfits
    · have ht := Host.Outcome.next.inj (ht.symm.trans (exec_extract_of_truncated hs hh hp hroom hshort))
      obtain ⟨m, r, ⟨u, hhead, hsize, htail⟩, hpay⟩ := extractsByHand_of_truncated hs hroom hh hp hshort
      rw [← ht] at htail
      have htsize : t.size = v := by simp [ht, hword]
      have hterr : t.err = 4#3 := by simp [ht]
      rw [htsize, hterr]
      exact ⟨u, _, _, _, m, r, hhead, hsize, htail, fun herr => absurd herr (by decide),
        fun hshort => absurd hroom (Nat.not_le.mpr hshort), fun _ _ => ⟨rfl, rfl, rfl, hpay⟩,
        fun herr => absurd herr (by decide)⟩
    · have ht := Host.Outcome.next.inj (ht.symm.trans (exec_extract_of_fits hs hh hp hfits))
      rw [hword] at ht
      obtain ⟨u, hhead, hsize, htail⟩ := extractsByHand_of_fits hs hroom hh hp hfits
      rw [← ht] at htail
      have htsize : t.size = v := by simp [ht, hword]
      have hterr : t.err = 0#3 := by simpa [ht] using hs
      rw [htsize, hterr]
      refine ⟨u, _, _, _, s.pay, _, hhead, hsize, htail, fun _ => ⟨rfl, rfl, rfl, ?_⟩,
        fun hshort => absurd hroom (Nat.not_le.mpr hshort), fun _ herr => absurd herr (by decide),
        fun herr => absurd herr (by decide)⟩
      simp [readings]

end Sys2Proof.Proofs
